-- ==== Sys2Proof/Word.lean ====
section
/-!
DEFINITION. Word.lean: the widths X64PTW computes with (spec/00_scope.md R9, R11).
Every value is an unsigned bit vector; no field is signed and no rule extends a sign.
-/

namespace Sys2Proof

/-- A byte: the unit of both address spaces (20_memory.md R202). -/
abbrev Byte := BitVec 8

/-- `u64`: addresses, entries, descriptor halves. -/
abbrev Word := BitVec 64

/-- `u128`: gates, 16-byte descriptors and the value operand of BITS. -/
abbrev Word128 := BitVec 128

/-- A command as the command register holds it: the opcode byte in bits 7:0 and the operand bytes above
it, each in its place of 30_encoding.md R301. The longest command (READ) is 25 bytes = 200 bits. -/
abbrev CommandWord := BitVec 200

end Sys2Proof
end

