-- ==== Sys2Proof/Machine/BitField.lean ====
section
/-!
DEFINITION. Machine/BitField.lean: the bit-field extractor (spec/40_bitfield.md R400, R403) and the byte-order
helpers of 00_scope.md R12 that the decoder, the entry decoder and the descriptor decoders share.
-/

namespace Sys2Proof

/-- `bits(v, s, n) = (v >> s) & (2^n - 1)` on unbounded naturals (40_bitfield.md R400). -/
def bits (v s n : Nat) : Nat := (v >>> s) &&& (2 ^ n - 1)

/-- The `n` bits of `v` from bit `lo` up: `v[lo+n-1 : lo]` of 00_scope.md R10. A slice above the width of `v`
reads zeros. -/
abbrev field {w : Nat} (v : BitVec w) (lo n : Nat) : BitVec n := v.extractLsb' lo n

/-- `bit(v, i)` read as a Boolean (00_scope.md R10). -/
abbrev bit {w : Nat} (v : BitVec w) (i : Nat) : Bool := v.getLsbD i

/-- `LE(B)`, the little-endian value of a list of bytes (00_scope.md R12). -/
def le : List Byte → Nat
  | [] => 0
  | b :: rest => b.toNat + 256 * le rest

/-- `bytesLE(v, k)`, the `k` bytes of `v`, least significant first (00_scope.md R12). -/
def bytesLE (v : Nat) : Nat → List Byte
  | 0 => []
  | k + 1 => BitVec.ofNat 8 v :: bytesLE (v / 256) k

end Sys2Proof
end

