-- ==== Sys2Proof/Config.lean ====
section
/-!
DEFINITION. Config.lean: the implementation parameters of spec/00_scope.md R7 and the constants of
10_state.md R105. The two open oracles of 92_eei_decisions.md (the memory reader and the caller's abort)
are not here: their answers stand in State as plain data.
-/

namespace Sys2Proof

/-- The one accepted value of `CFG_ARCH` (10_state.md R104). -/
def Config.archX86_64 : BitVec 8 := 1

/-- `CFG_VA_BITS`, hardwired (10_state.md R104). -/
def Config.vaBits : BitVec 8 := 48

/-- The smallest legal `M` (00_scope.md R7, 70_reset_and_hazards.md R802). -/
def Config.minM : Nat := 32

/-- The largest legal `M`. -/
def Config.maxM : Nat := 52

/-- The construction input `M` that `State.reset` is built with. DESIGN CHOICE (assumption 1), unsafe: the
spec leaves `M` an open parameter; 40 is the value its test vectors use. `State.construct` takes any `M`. -/
def Config.modelM : BitVec 8 := 40

/-- `ENTRIES` (10_state.md R105). -/
def Config.entries : Nat := 512

/-- `ENTRY_BYTES` (10_state.md R105). -/
def Config.entryBytes : Nat := 8

/-- `SIZE_4K` (10_state.md R105). -/
def Config.size4K : Nat := 0x1000

/-- `SIZE_2M` (10_state.md R105). -/
def Config.size2M : Nat := 0x200000

/-- `SIZE_1G` (10_state.md R105). -/
def Config.size1G : Nat := 0x40000000

/-- What a byte of guest memory that the image does not list reads as. DESIGN CHOICE (assumption 2), unsafe:
the spec gives guest memory no contents; 95_test_vectors.md reads its images with "Bytes not listed are 0". -/
def Config.unlistedByte : Byte := 0

end Sys2Proof
end

