-- ==== Sys2Proof/Syntax.lean ====
section
/-!
DEFINITION. Syntax.lean: one constructor for each row of spec/opcode_table.json.

The table's rows are of four kinds (spec/30_encoding.md): the nine commands and the illegal command, which the
block takes from its command register; the thirteen entry rows, one of which the walker runs for each page-table
entry it reads (R319); the eighteen segment-descriptor rows, one of which the GDT decoder runs for each slot
(R323); and the gate row, which the IDT decoder runs for each slot (R325). `FetchKind` names the four.
-/

namespace Sys2Proof

/-- The four page-table levels (00_scope.md R16): 4 = PML4, 3 = PDPT, 2 = PD, 1 = PT. -/
inductive Level where
  | l4
  | l3
  | l2
  | l1
deriving DecidableEq, Repr

/-- The number of a level (00_scope.md R16, 92_eei_decisions.md D37). -/
def Level.toNat : Level → Nat
  | .l4 => 4
  | .l3 => 3
  | .l2 => 2
  | .l1 => 1

/-- The instructions. A command's operands are the fields of 30_encoding.md R301; an array of 16 operand bytes is
its little-endian value. An entry row carries the 64-bit entry, a segment row the low 8 bytes `d` of the slot, the
gate row the 16 bytes of the slot. -/
inductive Instr where
  | bits (value : Word128) (start nbits : BitVec 8)
  | split (va : Word)
  | pteDecode (level : BitVec 8) (tableBase : Word) (index : BitVec 16) (raw : Word)
  | resolve (root va : Word)
  | read (root va length : Word)
  | segCreate (n : BitVec 8) (b : Word128)
  | gateDecode (b : Word128)
  | gdt (root base : Word) (limit : BitVec 16)
  | idt (root base : Word) (limit : BitVec 16)
  | illegalCommand (opcode : BitVec 8)
  | pteL4P0 (raw : Word)
  | pteL4P1PS0 (raw : Word)
  | pteL4P1PS1 (raw : Word)
  | pteL3P0PS0 (raw : Word)
  | pteL3P0PS1 (raw : Word)
  | pteL3P1PS0 (raw : Word)
  | pteL3P1PS1 (raw : Word)
  | pteL2P0PS0 (raw : Word)
  | pteL2P0PS1 (raw : Word)
  | pteL2P1PS0 (raw : Word)
  | pteL2P1PS1 (raw : Word)
  | pteL1P0 (raw : Word)
  | pteL1P1 (raw : Word)
  | segdescData (d : Word)
  | segdescCode (d : Word)
  | segdescNull (d : Word)
  | segdescCallgate (d : Word)
  | segdescTssT9 (d : Word)
  | segdescTssTB (d : Word)
  | segdescTssTD (d : Word)
  | segdescUnsupportedT1 (d : Word)
  | segdescUnsupportedT2 (d : Word)
  | segdescUnsupportedT3 (d : Word)
  | segdescUnsupportedT4 (d : Word)
  | segdescUnsupportedT5 (d : Word)
  | segdescUnsupportedT6 (d : Word)
  | segdescUnsupportedT7 (d : Word)
  | segdescUnsupportedT8 (d : Word)
  | segdescUnsupportedTA (d : Word)
  | segdescUnsupportedTC (d : Word)
  | segdescUnsupportedTE (d : Word)
  | gatedesc (q : Word128)
deriving DecidableEq, Repr

/-- Where an instruction's bits come from: the command register, a page-table entry that the walker reads at a
level, a slot of a GDT, a slot of an IDT. The level of an entry is the walker's, it is no bit of the entry. -/
inductive FetchKind where
  | command
  | entry (level : Level)
  | segment
  | gate
deriving DecidableEq, Repr

/-- The kind of each instruction. -/
def Instr.kind : Instr → FetchKind
  | .bits _ _ _ | .split _ | .pteDecode _ _ _ _ | .resolve _ _ | .read _ _ _ | .segCreate _ _ | .gateDecode _
  | .gdt _ _ _ | .idt _ _ _ | .illegalCommand _ => .command
  | .pteL4P0 _ | .pteL4P1PS0 _ | .pteL4P1PS1 _ => .entry .l4
  | .pteL3P0PS0 _ | .pteL3P0PS1 _ | .pteL3P1PS0 _ | .pteL3P1PS1 _ => .entry .l3
  | .pteL2P0PS0 _ | .pteL2P0PS1 _ | .pteL2P1PS0 _ | .pteL2P1PS1 _ => .entry .l2
  | .pteL1P0 _ | .pteL1P1 _ => .entry .l1
  | .segdescData _ | .segdescCode _ | .segdescNull _ | .segdescCallgate _
  | .segdescTssT9 _ | .segdescTssTB _ | .segdescTssTD _
  | .segdescUnsupportedT1 _ | .segdescUnsupportedT2 _ | .segdescUnsupportedT3 _ | .segdescUnsupportedT4 _
  | .segdescUnsupportedT5 _ | .segdescUnsupportedT6 _ | .segdescUnsupportedT7 _ | .segdescUnsupportedT8 _
  | .segdescUnsupportedTA _ | .segdescUnsupportedTC _ | .segdescUnsupportedTE _ => .segment
  | .gatedesc _ => .gate

end Sys2Proof
end

