-- ==== Sys2Proof/WellFormed.lean ====
section
/-!
DEFINITION. WellFormed.lean: which instructions some bits decode to.

A command is well formed with every value of its operand fields (30_encoding.md R303: an illegal operand value is
an error the command raises, not another command). An illegal command is well formed when its opcode selects no
command (R302). An entry, segment or gate row is well formed when its bits match the row of
spec/opcode_table.json: bits under `mask` equal `pattern`.
-/

namespace Sys2Proof

/-- A row's test in spec/opcode_table.json: the bits under `mask` are those of `pattern`. -/
def matchesRow (w mask pattern : Word) : Bool := w &&& mask == pattern

/-- Opcode 0x00 and opcodes 0x0A to 0xFF select no command (30_encoding.md R302). -/
def opcodeIsIllegal (opcode : BitVec 8) : Bool := opcode == 0 || decide (0x0A ≤ opcode.toNat)

/-- The well-formedness check, row by row. -/
def Instr.wf : Instr → Bool
  | .bits _ _ _ | .split _ | .pteDecode _ _ _ _ | .resolve _ _ | .read _ _ _ | .segCreate _ _ | .gateDecode _
  | .gdt _ _ _ | .idt _ _ _ => true
  | .illegalCommand opcode => opcodeIsIllegal opcode
  | .pteL4P0 raw => matchesRow raw 0x01 0x00
  | .pteL4P1PS0 raw => matchesRow raw 0x81 0x01
  | .pteL4P1PS1 raw => matchesRow raw 0x81 0x81
  | .pteL3P0PS0 raw => matchesRow raw 0x81 0x00
  | .pteL3P0PS1 raw => matchesRow raw 0x81 0x80
  | .pteL3P1PS0 raw => matchesRow raw 0x81 0x01
  | .pteL3P1PS1 raw => matchesRow raw 0x81 0x81
  | .pteL2P0PS0 raw => matchesRow raw 0x81 0x00
  | .pteL2P0PS1 raw => matchesRow raw 0x81 0x80
  | .pteL2P1PS0 raw => matchesRow raw 0x81 0x01
  | .pteL2P1PS1 raw => matchesRow raw 0x81 0x81
  | .pteL1P0 raw => matchesRow raw 0x01 0x00
  | .pteL1P1 raw => matchesRow raw 0x01 0x01
  | .segdescData d => matchesRow d 0x0000180000000000 0x0000100000000000
  | .segdescCode d => matchesRow d 0x0000180000000000 0x0000180000000000
  | .segdescNull d => matchesRow d 0x00001F0000000000 0x0000000000000000
  | .segdescCallgate d => matchesRow d 0x00001F0000000000 0x00000F0000000000
  | .segdescTssT9 d => matchesRow d 0x00001F0000000000 0x0000090000000000
  | .segdescTssTB d => matchesRow d 0x00001F0000000000 0x00000B0000000000
  | .segdescTssTD d => matchesRow d 0x00001F0000000000 0x00000D0000000000
  | .segdescUnsupportedT1 d => matchesRow d 0x00001F0000000000 0x0000010000000000
  | .segdescUnsupportedT2 d => matchesRow d 0x00001F0000000000 0x0000020000000000
  | .segdescUnsupportedT3 d => matchesRow d 0x00001F0000000000 0x0000030000000000
  | .segdescUnsupportedT4 d => matchesRow d 0x00001F0000000000 0x0000040000000000
  | .segdescUnsupportedT5 d => matchesRow d 0x00001F0000000000 0x0000050000000000
  | .segdescUnsupportedT6 d => matchesRow d 0x00001F0000000000 0x0000060000000000
  | .segdescUnsupportedT7 d => matchesRow d 0x00001F0000000000 0x0000070000000000
  | .segdescUnsupportedT8 d => matchesRow d 0x00001F0000000000 0x0000080000000000
  | .segdescUnsupportedTA d => matchesRow d 0x00001F0000000000 0x00000A0000000000
  | .segdescUnsupportedTC d => matchesRow d 0x00001F0000000000 0x00000C0000000000
  | .segdescUnsupportedTE d => matchesRow d 0x00001F0000000000 0x00000E0000000000
  | .gatedesc _ => true

end Sys2Proof
end

