-- ==== Sys2Proof/Decode.lean ====
section
/-!
DEFINITION. Decode.lean: from bits to instructions (spec/30_encoding.md R301, R302, R319, R323, R325) and back.
-/

namespace Sys2Proof

/-- Why some bytes are no instruction. -/
inductive DecodeError where
  /-- there is no opcode byte -/
  | noOpcode
  /-- the opcode needs more bytes than are there (R301: every command has one fixed length) -/
  | truncatedCommand (opcode : BitVec 8)
  /-- fewer than the 8 bytes of an entry -/
  | truncatedEntry
  /-- fewer than the 8 bytes that classify a GDT slot -/
  | truncatedSegment
  /-- fewer than the 16 bytes of an IDT slot -/
  | truncatedGate
deriving DecidableEq, Repr

/-- The length of a command in bytes, told by its opcode (R301). An illegal opcode ends at once (R302): only its
one byte is read. -/
def commandLength (opcode : BitVec 8) : Nat :=
  match opcode.toNat with
  | 0x01 => 19
  | 0x02 => 9
  | 0x03 => 20
  | 0x04 => 17
  | 0x05 => 25
  | 0x06 => 18
  | 0x07 => 17
  | 0x08 => 19
  | 0x09 => 19
  | _ => 1

/-- The command that a command word holds: the opcode byte selects it (R300, R302), its operand fields stand at the
byte offsets of R301 (byte `k` is bits 8k+7 to 8k). Bytes past the command's own length are not read. -/
def decodeCommand (w : CommandWord) : Instr :=
  match (field w 0 8).toNat with
  | 0x01 => .bits (field w 8 128) (field w 136 8) (field w 144 8)
  | 0x02 => .split (field w 8 64)
  | 0x03 => .pteDecode (field w 8 8) (field w 16 64) (field w 80 16) (field w 96 64)
  | 0x04 => .resolve (field w 8 64) (field w 72 64)
  | 0x05 => .read (field w 8 64) (field w 72 64) (field w 136 64)
  | 0x06 => .segCreate (field w 8 8) (field w 16 128)
  | 0x07 => .gateDecode (field w 8 128)
  | 0x08 => .gdt (field w 8 64) (field w 72 64) (field w 136 16)
  | 0x09 => .idt (field w 8 64) (field w 72 64) (field w 136 16)
  | _ => .illegalCommand (field w 0 8)

/-- The row of a page-table entry: its level, P (bit 0) and, at levels 4 to 2, bit 7 select it (R319). At level 4
the not-present row does not look at bit 7; at level 1 bit 7 is PAT and selects nothing. -/
def entryRow (level : Level) (raw : Word) : Instr :=
  match level, bit raw 0, bit raw 7 with
  | .l4, false, _ => .pteL4P0 raw
  | .l4, true, false => .pteL4P1PS0 raw
  | .l4, true, true => .pteL4P1PS1 raw
  | .l3, false, false => .pteL3P0PS0 raw
  | .l3, false, true => .pteL3P0PS1 raw
  | .l3, true, false => .pteL3P1PS0 raw
  | .l3, true, true => .pteL3P1PS1 raw
  | .l2, false, false => .pteL2P0PS0 raw
  | .l2, false, true => .pteL2P0PS1 raw
  | .l2, true, false => .pteL2P1PS0 raw
  | .l2, true, true => .pteL2P1PS1 raw
  | .l1, false, _ => .pteL1P0 raw
  | .l1, true, _ => .pteL1P1 raw

/-- The row of a GDT slot, from `c = d[44:40]`: the S bit above the type nibble (R323). Lines 1 to 5 of R323 in
their order, the call gate before the TSS mask (90_conflicts.md C3); line 6 is one row per type. -/
def segmentRow (d : Word) : Instr :=
  match (field d 40 5).toNat with
  | 0x00 => .segdescNull d
  | 0x01 => .segdescUnsupportedT1 d
  | 0x02 => .segdescUnsupportedT2 d
  | 0x03 => .segdescUnsupportedT3 d
  | 0x04 => .segdescUnsupportedT4 d
  | 0x05 => .segdescUnsupportedT5 d
  | 0x06 => .segdescUnsupportedT6 d
  | 0x07 => .segdescUnsupportedT7 d
  | 0x08 => .segdescUnsupportedT8 d
  | 0x09 => .segdescTssT9 d
  | 0x0A => .segdescUnsupportedTA d
  | 0x0B => .segdescTssTB d
  | 0x0C => .segdescUnsupportedTC d
  | 0x0D => .segdescTssTD d
  | 0x0E => .segdescUnsupportedTE d
  | 0x0F => .segdescCallgate d
  | _ => if bit d 43 then .segdescCode d else .segdescData d

/-- The row of an IDT slot: every 16 bytes are a gate (R325, R328). -/
def gateRow (q : Word128) : Instr := .gatedesc q

/-- The decoder on bytes, total: the instruction that the leading bytes of `bs` are, read as `kind` says, or the
name of what is missing. Bytes past the instruction's own length are not looked at. -/
def decode (kind : FetchKind) (bs : List Byte) : Except DecodeError Instr :=
  match kind with
  | .command =>
    match bs with
    | [] => .error .noOpcode
    | opcode :: _ =>
      if bs.length < commandLength opcode then .error (.truncatedCommand opcode)
      else .ok (decodeCommand (BitVec.ofNat 200 (le (bs.take (commandLength opcode)))))
  | .entry level =>
    if bs.length < 8 then .error .truncatedEntry else .ok (entryRow level (BitVec.ofNat 64 (le (bs.take 8))))
  | .segment =>
    if bs.length < 8 then .error .truncatedSegment else .ok (segmentRow (BitVec.ofNat 64 (le (bs.take 8))))
  | .gate =>
    if bs.length < 16 then .error .truncatedGate else .ok (gateRow (BitVec.ofNat 128 (le (bs.take 16))))

/-- The kind of the instruction a row of `nbits` bits of spec/opcode_table.json is read as where only its bits are
known (DESIGN CHOICE, assumption 12): 5 to 8 bytes are a GDT slot's low half and 16 bytes an IDT slot, since no
command has such a length; everything else is a command. No word alone names a page-table entry's row, whose level
is the walker's. -/
def tableWordKind (nbits : Nat) : FetchKind :=
  if 32 < nbits ∧ nbits ≤ 64 then .segment else if nbits = 128 then .gate else .command

/-- The instruction the decoder reads from the bits `w` of a row of spec/opcode_table.json, every bit above `nbits`
zero up to the longest instruction (25 bytes). -/
def decodeTableWord (nbits w : Nat) : Option Instr :=
  match decode (tableWordKind nbits) (bytesLE (w % 2 ^ nbits) 25) with
  | .ok i => some i
  | .error _ => none

/-- The bytes of an instruction: for a command the opcode byte and its operand fields, each little-endian, in the
order of R301; for an entry, segment or gate row the bytes in memory order (20_memory.md R203). -/
def encode : Instr → List Byte
  | .bits value start nbits => 0x01 :: (bytesLE value.toNat 16 ++ [start, nbits])
  | .split va => 0x02 :: bytesLE va.toNat 8
  | .pteDecode level tableBase index raw =>
    0x03 :: level :: (bytesLE tableBase.toNat 8 ++ bytesLE index.toNat 2 ++ bytesLE raw.toNat 8)
  | .resolve root va => 0x04 :: (bytesLE root.toNat 8 ++ bytesLE va.toNat 8)
  | .read root va length => 0x05 :: (bytesLE root.toNat 8 ++ bytesLE va.toNat 8 ++ bytesLE length.toNat 8)
  | .segCreate n b => 0x06 :: n :: bytesLE b.toNat 16
  | .gateDecode b => 0x07 :: bytesLE b.toNat 16
  | .gdt root base limit => 0x08 :: (bytesLE root.toNat 8 ++ bytesLE base.toNat 8 ++ bytesLE limit.toNat 2)
  | .idt root base limit => 0x09 :: (bytesLE root.toNat 8 ++ bytesLE base.toNat 8 ++ bytesLE limit.toNat 2)
  | .illegalCommand opcode => [opcode]
  | .pteL4P0 raw | .pteL4P1PS0 raw | .pteL4P1PS1 raw
  | .pteL3P0PS0 raw | .pteL3P0PS1 raw | .pteL3P1PS0 raw | .pteL3P1PS1 raw
  | .pteL2P0PS0 raw | .pteL2P0PS1 raw | .pteL2P1PS0 raw | .pteL2P1PS1 raw
  | .pteL1P0 raw | .pteL1P1 raw => bytesLE raw.toNat 8
  | .segdescData d | .segdescCode d | .segdescNull d | .segdescCallgate d
  | .segdescTssT9 d | .segdescTssTB d | .segdescTssTD d
  | .segdescUnsupportedT1 d | .segdescUnsupportedT2 d | .segdescUnsupportedT3 d | .segdescUnsupportedT4 d
  | .segdescUnsupportedT5 d | .segdescUnsupportedT6 d | .segdescUnsupportedT7 d | .segdescUnsupportedT8 d
  | .segdescUnsupportedTA d | .segdescUnsupportedTC d | .segdescUnsupportedTE d => bytesLE d.toNat 8
  | .gatedesc q => bytesLE q.toNat 16

/-- A command as the caller writes it into the command register. -/
def commandWord (i : Instr) : CommandWord := BitVec.ofNat 200 (le (encode i))

end Sys2Proof
end

