-- ==== Sys2Proof/Machine/State.lean ====
section
/-!
DEFINITION. Machine/State.lean: the state of an X64PTW run as plain data (spec/10_state.md): the configuration
registers, the command and response registers, the sequencer's frames, and what the two other agents (the memory
reader and the caller, R100) hold. INVENTORY.md lists every field with its rule and its reset value.
-/

namespace Sys2Proof.Machine

/-! ### Result records (10_state.md R107 to R112) -/

/-- The form of an entry (41_translation.md R424): it references a lower table, or it maps a page. -/
inductive Form where
  | table
  | leaf
deriving DecidableEq, Repr

/-- A decoded page-table entry (R107). -/
structure Entry where
  level : Level
  tableBase : Word
  index : BitVec 9
  raw : Word
  form : Form
  present : Bool
  writable : Bool
  userAccessible : Bool
  writeThrough : Bool
  cacheDisable : Bool
  accessed : Bool
  executeDisable : Bool
  /-- absent at level 1 -/
  pageSize : Option Bool
  /-- absent in table form, as `global` and `pat` -/
  dirty : Option Bool
  global : Option Bool
  pat : Option Bool
  /-- 12, 21 or 30 -/
  frameShift : Nat
  /-- a natural below 2^(M - frameShift) -/
  frameRef : Nat
  reserved : Word
  faulty : Bool
deriving DecidableEq, Repr

/-- The 4 KiB view of a virtual address (R109). -/
structure View4K where
  pml4 : BitVec 9
  pdpt : BitVec 9
  pd : BitVec 9
  pt : BitVec 9
  offset : BitVec 12
deriving DecidableEq, Repr

/-- The 2 MiB view of a virtual address (R109). -/
structure View2M where
  pml4 : BitVec 9
  pdpt : BitVec 9
  pd : BitVec 9
  offset : BitVec 21
deriving DecidableEq, Repr

/-- The 1 GiB view of a virtual address (R109). -/
structure View1G where
  pml4 : BitVec 9
  pdpt : BitVec 9
  offset : BitVec 30
deriving DecidableEq, Repr

/-- An address split: one view per possible terminating page size (R109). -/
structure AddressSplit where
  v4K : View4K
  v2M : View2M
  v1G : View1G
deriving DecidableEq, Repr

/-- A translation result (R108): base, size and offset of the page, all three or none, and the entries visited. -/
structure TranslationResult where
  pageBase : Option Word
  pageSize : Option Nat
  pageOffset : Option (BitVec 30)
  entries : List Entry
deriving DecidableEq, Repr

/-- The kinds of a segment descriptor (R110). There is no generic system kind (43_segment_descriptors.md R558). -/
inductive SegKind where
  | null
  | data
  | code
  | tss
  | callgate
deriving DecidableEq, Repr

/-- The fields every segment descriptor carries (R110, 43_segment_descriptors.md R552). -/
structure SegCommon where
  base : BitVec 32
  limit : BitVec 20
  type : BitVec 4
  g : Bool
  present : Bool
  l : Bool
  dpl : BitVec 2
deriving DecidableEq, Repr

/-- A segment descriptor (R110), a tagged variant. `raw` has 64 bits where the size is 8 and 128 where it is 16. -/
inductive SegDesc where
  | null (raw : Word) (common : SegCommon)
  | data (raw : Word) (common : SegCommon) (accessed writable executable : Bool)
  | code (raw : Word) (common : SegCommon) (accessed readable executable : Bool)
  | tss (raw : Word128) (common : SegCommon) (baseHigh : BitVec 32) (base64 : Word)
  | callgate (raw : Word128) (common : SegCommon)
deriving DecidableEq, Repr

/-- A gate descriptor (R111), always 16 bytes. -/
structure GateDesc where
  offset : Word
  segmentSelector : BitVec 16
  interruptStackTable : BitVec 4
  type : BitVec 4
  dpl : BitVec 2
  present : Bool
  raw : Word128
deriving DecidableEq, Repr

/-- An error and its information record (R112, 60_exceptions.md R701). -/
inductive ErrInfo where
  | addressWidthViolation (va : Word)
  | hostReadFailure (addr : Word)
  | unsupportedDescriptor (type : BitVec 4) (off : BitVec 16)
  | unmappedRange (va : Word)
  | insufficientBytes (given need : BitVec 8)
  | truncatedDescriptor (off : BitVec 16)
  | aborted
  | illegalCommand (opcode : BitVec 8)
  | illegalOperand (opcode : BitVec 8)
deriving DecidableEq, Repr

/-- What `RSP.payload` holds (R103): a command's result record, or an error record. -/
inductive Payload where
  | bits (v : Word128)
  | split (a : AddressSplit)
  | entry (e : Entry)
  | translation (t : TranslationResult)
  | bytes (bs : List Byte)
  | segment (d : SegDesc)
  | gate (g : GateDesc)
  | segments (ds : List SegDesc)
  | gates (gs : List GateDesc)
  | error (e : ErrInfo)
deriving DecidableEq, Repr

/-- The response register `RSP` (R103). -/
structure Response where
  status : BitVec 8
  payload : Payload
deriving DecidableEq, Repr

/-! ### The memory reader's side (20_memory.md R200, R220) -/

/-- The sizes of the reader's interface (R200). X64PTW issues only 1 and 8 (R206). -/
inductive ReadSize where
  | b1
  | b2
  | b4
  | b8
deriving DecidableEq, Repr

/-- The size in bytes. -/
def ReadSize.bytes : ReadSize → Nat
  | .b1 => 1
  | .b2 => 2
  | .b4 => 4
  | .b8 => 8

/-- The reader's answer to one call: a value, a failure, or no answer at all (R200, 70_reset_and_hazards.md R820). -/
inductive ReaderAnswer where
  | value (v : Word)
  | fail
  | never
deriving DecidableEq, Repr

/-- One event of the read log, `(addr, size, answer)` (R220). A failed read answers `none`. -/
structure ReadEvent where
  addr : Word
  size : ReadSize
  answer : Option Word
deriving DecidableEq, Repr

/-- The memory image (R200): (address, byte) pairs in one canonical form, addresses strictly rising, none at or
above 2^64 and no entry equal to what an unlisted address reads as. -/
abbrev Memory := List Host.Cell

/-- The canonical form of the memory image. -/
def Memory.wf (m : Memory) : Bool :=
  decide (m.Pairwise fun a b => a.1 < b.1) && m.all fun c => decide (c.1 < 2 ^ 64) && c.2 != Config.unlistedByte

/-! ### The sequencer's frames (10_state.md R120 to R124) -/

/-- The sequencer's phases (R120). -/
inductive Phase where
  | idle
  | walk
  | range
  | table
deriving DecidableEq, Repr

/-- The WALK frame (R122). -/
structure WalkFrame where
  root : Word
  va : Word
  split : AddressSplit
  level : Level
  tableBase : Word
  entries : List Entry
deriving DecidableEq, Repr

/-- What the RANGE frame holds while a resolved page is copied (R123): the next physical address, the bytes left
in the chunk, and the chunk's length (the `let` of 42_linear_read.md R500). -/
structure CopyState where
  pa : Word
  chunkLeft : Word
  chunk : Word
deriving DecidableEq, Repr

/-- The RANGE frame (R123). -/
structure RangeFrame where
  root : Word
  cur : Word
  remaining : Word
  out : List Byte
  copy : Option CopyState
deriving DecidableEq, Repr

/-- The two tables (R124). -/
inductive TableKind where
  | gdt
  | idt
deriving DecidableEq, Repr

/-- The TABLE frame (R124). The descriptors decoded so far stand in `segs` (a GDT) or `gates` (an IDT). -/
structure TableFrame where
  kind : TableKind
  root : Word
  base : Word
  limit : BitVec 16
  buf : Option (List Byte)
  off : Nat
  segs : List SegDesc
  gates : List GateDesc
deriving DecidableEq, Repr

/-! ### The machine -/

/-- The state of a run. The frame slots are the stack of R120, at most one frame per phase, nested WALK inside RANGE
inside TABLE; `State.phase` reads the phase off them. -/
structure State where
  /-- `CFG_ARCH` (R104) -/
  cfgArch : BitVec 8
  /-- `CFG_VA_BITS` (R104) -/
  cfgVaBits : BitVec 8
  /-- `CFG_M` (R104) -/
  cfgM : BitVec 8
  /-- `CMD` (R102) -/
  cmd : Option CommandWord
  /-- `RSP` (R103) -/
  rsp : Option Response
  /-- the WALK frame (R122) -/
  walk : Option WalkFrame
  /-- the RANGE frame (R123) -/
  range : Option RangeFrame
  /-- the TABLE frame (R124) -/
  table : Option TableFrame
  /-- the memory reader's image (R200) -/
  mem : Memory
  /-- the addresses at which a read of the image fails (R200) -/
  inaccessible : List Nat
  /-- the reader's answers to its next calls; past them the image answers (R200, R810, R820) -/
  answers : List ReaderAnswer
  /-- the commands the caller writes next (R100, R811) -/
  commands : List CommandWord
  /-- the abort input at the next sampling points; past them it is not set (R712) -/
  aborts : List Bool
  /-- the reads issued and answered so far, in issue order (R220) -/
  readLog : List ReadEvent
deriving DecidableEq, Repr

/-- Why a run has no state at all. Only construction raises these; no step does. -/
inductive Fault where
  /-- raised by `State.construct` when the architecture input is not `X86_64` (70_reset_and_hazards.md R801): no block
  exists afterwards. Safe: the spec names the failure. -/
  | unsupportedArchitecture
  /-- raised by `State.construct` when `M` is outside 32 to 52 (70_reset_and_hazards.md R802). Safe: the spec names
  the failure. -/
  | invalidConfiguration
deriving DecidableEq, Repr

/-- What the model does not admit. -/
inductive Refusal where
  /-- raised by an arm of `exec` whose instruction has no meaning yet. Safe. -/
  | notModelled (mnemonic : String)
  /-- raised by a command's meaning, and by `issueCommand`, when the block is not idle: R811, "A second command written
  while `phase ≠ IDLE` is not defined by this spec ... A model refuses such a write." Safe. -/
  | commandWhileBusy
  /-- raised by `readResponse` before the first command ends: R130, U16. Safe. -/
  | responseNotReady
  /-- raised by an entry row where no WALK frame waits for an entry of its level: the walker never asks for it (R431).
  No step reaches it. Safe. -/
  | entryOutsideWalk
  /-- raised by a segment or gate row where no TABLE frame of its kind is at a slot: the decoder never asks for it
  (R570, R610). No step reaches it. Safe. -/
  | slotOutsideTable
deriving DecidableEq, Repr

/-- What one step has in hand after the fetch: an instruction to run from a state, or a finished step that runs no
instruction (a data read, a wait, a move of the caller, the end of a table). -/
inductive Fetched where
  | run (i : Instr) (s : State)
  | done (s : State)
deriving DecidableEq, Repr

/-- The block right after construction with the configuration `arch`, `m` (R130, 70_reset_and_hazards.md R800): idle,
no frames, no command, no response, and the other agents with nothing prepared. -/
def State.constructed (arch m : BitVec 8) : State where
  cfgArch := arch
  cfgVaBits := Config.vaBits
  cfgM := m
  cmd := none
  rsp := none
  walk := none
  range := none
  table := none
  mem := []
  inaccessible := []
  answers := []
  commands := []
  aborts := []
  readLog := []

/-- The machine right after reset: constructed for `X86_64` with the `M` of assumption 1. -/
def State.reset : State := State.constructed Config.archX86_64 Config.modelM

end Sys2Proof.Machine
end

