-- ==== Sys2Proof/Machine/Flags.lean ====
section
/-!
DEFINITION. Machine/Flags.lean: the flag-like outputs. X64PTW has no status flags and no condition codes
(spec/10_state.md R106); what it computes in their place is the flag fields of a decoded entry
(41_translation.md R425), its reserved bits and its `faulty` flag (R427, 30_encoding.md R318), and the status code
of RSP (60_exceptions.md R701).
-/

namespace Sys2Proof.Machine

/-- The form of an entry with value `raw` at level `L` (41_translation.md R424). It does not depend on P. -/
def form (L : Level) (raw : Word) : Form :=
  match L with
  | .l1 => .leaf
  | .l2 | .l3 => if bit raw 7 then .leaf else .table
  | .l4 => .table

/-- `RM(M) = 2^52 - 2^M`: bits 51:M (30_encoding.md R318). -/
def reservedAboveM (M : Nat) : Word := BitVec.ofNat 64 (2 ^ 52 - 2 ^ M)

/-- `RSVD(level, form)`, the bits that must be 0 in an entry (30_encoding.md R318): bits 51:M at every level; bit 7 at
level 4; bits 29:13 of a 1 GiB leaf; bits 20:13 of a 2 MiB leaf. -/
def rsvd (M : Nat) (L : Level) (f : Form) : Word :=
  match L, f with
  | .l4, _ => reservedAboveM M ||| 0x80
  | .l3, .leaf => reservedAboveM M ||| 0x3FFFE000
  | .l2, .leaf => reservedAboveM M ||| 0x1FE000
  | .l3, .table | .l2, .table | .l1, _ => reservedAboveM M

/-- `reserved = raw & RSVD(L, f)` (41_translation.md R427). -/
def reservedBits (M : Nat) (L : Level) (raw : Word) : Word := raw &&& rsvd M L (form L raw)

/-- `faulty = (reserved ≠ 0)` (41_translation.md R427). -/
def faulty (M : Nat) (L : Level) (raw : Word) : Bool := reservedBits M L raw != 0

/-- `pageSize` (41_translation.md R425): bit 7 at levels 4 to 2, absent at level 1. -/
def pageSizeFlag (L : Level) (raw : Word) : Option Bool :=
  match L with
  | .l1 => none
  | .l2 | .l3 | .l4 => some (bit raw 7)

/-- A flag that only a leaf has (41_translation.md R425). -/
def leafFlag (L : Level) (raw : Word) (i : Nat) : Option Bool :=
  match form L raw with
  | .leaf => some (bit raw i)
  | .table => none

/-- `dirty` (41_translation.md R425): bit 6 of a leaf. -/
def dirtyFlag (L : Level) (raw : Word) : Option Bool := leafFlag L raw 6

/-- `global` (41_translation.md R425): bit 8 of a leaf. -/
def globalFlag (L : Level) (raw : Word) : Option Bool := leafFlag L raw 8

/-- `pat` (41_translation.md R425): bit 7 of a level-1 leaf, bit 12 of a larger one. -/
def patFlag (L : Level) (raw : Word) : Option Bool :=
  match L with
  | .l1 => leafFlag L raw 7
  | .l2 | .l3 | .l4 => leafFlag L raw 12

/-- The status code of an error (60_exceptions.md R701). 0 is OK. -/
def errorCode : ErrInfo → BitVec 8
  | .addressWidthViolation _ => 1
  | .hostReadFailure _ => 2
  | .unsupportedDescriptor _ _ => 3
  | .unmappedRange _ => 4
  | .insufficientBytes _ _ => 5
  | .truncatedDescriptor _ => 6
  | .aborted => 7
  | .illegalCommand _ => 8
  | .illegalOperand _ => 9

end Sys2Proof.Machine
end

