-- ==== Sys2Proof/Machine/Operands.lean ====
section
/-!
DEFINITION. Machine/Operands.lean: the data formats X64PTW decodes, as functions of their bits: the virtual address
(spec/41_translation.md R420 to R423, R429), the page-table entry (R424 to R428, R439), the segment descriptor
(43_segment_descriptors.md R550 to R559) and the gate (44_gate_descriptors.md R600). Every bit position is the one
of 30_encoding.md R310 to R325.
-/

namespace Sys2Proof.Machine

/-! ### Virtual addresses -/

/-- `split(va)` (41_translation.md R420). Bits 63:48 are not looked at (R421, D47). -/
def splitAddress (va : Word) : AddressSplit where
  v4K := { pml4 := field va 39 9, pdpt := field va 30 9, pd := field va 21 9, pt := field va 12 9, offset := field va 0 12 }
  v2M := { pml4 := field va 39 9, pdpt := field va 30 9, pd := field va 21 9, offset := field va 0 21 }
  v1G := { pml4 := field va 39 9, pdpt := field va 30 9, offset := field va 0 30 }

/-- `index(s, L)` (41_translation.md R422). -/
def levelIndex (sp : AddressSplit) : Level → BitVec 9
  | .l4 => sp.v4K.pml4
  | .l3 => sp.v4K.pdpt
  | .l2 => sp.v4K.pd
  | .l1 => sp.v4K.pt

/-- `offset(s, L)` for a terminating level (41_translation.md R422), as the u30 of R108. No walk ends at level 4 with a
page; the 1 GiB offset stands there only to make the function total. -/
def levelOffset (sp : AddressSplit) : Level → BitVec 30
  | .l4 | .l3 => sp.v1G.offset
  | .l2 => sp.v2M.offset.setWidth 30
  | .l1 => sp.v4K.offset.setWidth 30

/-- Canonical at `vaBits` bits: bits 63 down to `vaBits - 1` are all 0 or all 1. At 48 this is `canonical48` of
41_translation.md R429, `va[63:47] = 0` or `va[63:47] = 0x1FFFF`. -/
def canonical (vaBits : Nat) (va : Word) : Bool :=
  let top := bits va.toNat (vaBits - 1) (65 - vaBits)
  top == 0 || top == 2 ^ (65 - vaBits) - 1

/-- The address of slot `i` of a table at `t`: `(t + 8*i) mod 2^64` (41_translation.md R423). -/
def entryAddress (t : Word) (i : BitVec 9) : Word := t + 8 * i.setWidth 64

/-! ### Page-table entries -/

/-- `shift(L, f)` (41_translation.md R426, 10_state.md R105). -/
def frameShift (L : Level) (f : Form) : Nat :=
  match L, f with
  | .l3, .leaf => 30
  | .l2, .leaf => 21
  | .l4, _ | .l3, .table | .l2, .table | .l1, _ => 12

/-- `frameRef = bits(raw, sh, M - sh)` (41_translation.md R426). -/
def frameRef (M : Nat) (L : Level) (raw : Word) : Nat :=
  let sh := frameShift L (form L raw)
  bits raw.toNat sh (M - sh)

/-- `decodeEntry(L, t, i, raw)` (41_translation.md R428). -/
def decodeEntry (M : Nat) (L : Level) (t : Word) (i : BitVec 9) (raw : Word) : Entry where
  level := L
  tableBase := t
  index := i
  raw := raw
  form := form L raw
  present := bit raw 0
  writable := bit raw 1
  userAccessible := bit raw 2
  writeThrough := bit raw 3
  cacheDisable := bit raw 4
  accessed := bit raw 5
  executeDisable := bit raw 63
  pageSize := pageSizeFlag L raw
  dirty := dirtyFlag L raw
  global := globalFlag L raw
  pat := patFlag L raw
  frameShift := frameShift L (form L raw)
  frameRef := frameRef M L raw
  reserved := reservedBits M L raw
  faulty := faulty M L raw

/-- `base = frameRef << sh` (41_translation.md R426): the base of the next table, or of the page. -/
def Entry.base (e : Entry) : Word := BitVec.ofNat 64 (e.frameRef <<< e.frameShift)

/-- The field values that `encodeEntry` places (41_translation.md R439). `pageSize` is the PS bit at levels 4 to 2;
`dirty`, `global` and `pat` are placed in leaf form only. -/
structure EntryFields where
  present : Bool
  writable : Bool
  userAccessible : Bool
  writeThrough : Bool
  cacheDisable : Bool
  accessed : Bool
  executeDisable : Bool
  dirty : Bool
  global : Bool
  pat : Bool
  frameRef : Nat
deriving DecidableEq, Repr

/-- A Boolean placed at bit `i`. -/
def placeBit (b : Bool) (i : Nat) : Nat := b.toNat <<< i

/-- `encodeEntry(L, f, fields)` (41_translation.md R439): each field at its bit of 30_encoding.md R311 to R317, every
ignored and reserved bit 0. PS is 1 in the leaf form of levels 3 and 2, and 0 at level 4. -/
def encodeEntry (L : Level) (f : Form) (x : EntryFields) : Word :=
  let common := placeBit x.present 0 ||| placeBit x.writable 1 ||| placeBit x.userAccessible 2 |||
    placeBit x.writeThrough 3 ||| placeBit x.cacheDisable 4 ||| placeBit x.accessed 5 ||| placeBit x.executeDisable 63
  let leafBits := placeBit x.dirty 6 ||| placeBit x.global 8
  let formBits :=
    match L, f with
    | .l1, _ => leafBits ||| placeBit x.pat 7
    | .l2, .leaf | .l3, .leaf => leafBits ||| placeBit true 7 ||| placeBit x.pat 12
    | .l2, .table | .l3, .table | .l4, _ => 0
  BitVec.ofNat 64 (common ||| formBits ||| x.frameRef <<< frameShift L f)

/-! ### Segment descriptors -/

/-- `size` of a kind (43_segment_descriptors.md R559). -/
def SegKind.size : SegKind → Nat
  | .null | .data | .code => 8
  | .tss | .callgate => 16

/-- `classify(d)` (43_segment_descriptors.md R550), the tests in their order, on `c = d[44:40]`. The size is the kind's. -/
def classify (d : Word) : Option SegKind :=
  let c := field d 40 5
  if bit c 4 && !bit c 3 then some .data
  else if bit c 4 && bit c 3 then some .code
  else if c == 0x00 then some .null
  else if c == 0x0F then some .callgate
  else if c &&& 0x9 == 0x9 then some .tss
  else none

/-- The common fields of the low 8 bytes (43_segment_descriptors.md R552). `limit` is not scaled by `g` (D46). -/
def segCommon (d : Word) : SegCommon where
  base := field d 56 8 ++ field d 32 8 ++ field d 16 16
  limit := field d 48 4 ++ field d 0 16
  type := field d 40 4
  g := bit d 55
  present := bit d 47
  l := bit d 53
  dpl := field d 45 2

/-- `decodeSeg(kind, b)` (43_segment_descriptors.md R553 to R557), `b` the little-endian value of the 16 bytes from the
slot's start. An 8-byte kind looks at the low half only. -/
def decodeSeg (k : SegKind) (b : Word128) : SegDesc :=
  let d := field b 0 64
  let common := segCommon d
  match k with
  | .null => .null d common
  | .data => .data d common (bit d 40) (bit d 41) (bit d 43)
  | .code => .code d common (bit d 40) (bit d 41) (bit d 43)
  | .tss => .tss b common (field b 64 32) (field b 64 32 ++ common.base)
  | .callgate => .callgate b common

/-- The kind of a decoded descriptor (10_state.md R110). -/
def SegDesc.kind : SegDesc → SegKind
  | .null _ _ => .null
  | .data _ _ _ _ _ => .data
  | .code _ _ _ _ _ => .code
  | .tss _ _ _ _ => .tss
  | .callgate _ _ => .callgate

/-- "Each variant reports its own byte size (8 or 16)" (43_segment_descriptors.md R559). -/
def SegDesc.size (x : SegDesc) : Nat := x.kind.size

/-- The common fields of a decoded descriptor (10_state.md R110). -/
def SegDesc.common : SegDesc → SegCommon
  | .null _ c | .data _ c _ _ _ | .code _ c _ _ _ | .tss _ c _ _ | .callgate _ c => c

/-! ### Gate descriptors -/

/-- `decodeGate(q)` (44_gate_descriptors.md R600). No field is checked. -/
def decodeGate (q : Word128) : GateDesc where
  offset := field q 64 32 ++ field q 48 16 ++ field q 0 16
  segmentSelector := field q 16 16
  interruptStackTable := field q 32 4
  type := field q 40 4
  dpl := field q 45 2
  present := bit q 47
  raw := q

end Sys2Proof.Machine
end

