-- ==== Sys2Proof/Machine/Ops.lean ====
section
/-!
DEFINITION. Machine/Ops.lean: the named operations every meaning is made of: the memory image, the reader's answer
and MemRead (spec/20_memory.md R200, R201, R220), ending a command with a result or an error (60_exceptions.md R702:
this block's whole "taking an exception"; R711: nothing returns from one), the caller's abort (R712), and the frames.
-/

namespace Sys2Proof.Machine

/-! ### The memory image -/

/-- The byte of the image at address `a`. -/
def Memory.read : Memory → Nat → Byte
  | [], _ => Config.unlistedByte
  | (k, v) :: rest, a => if a = k then v else Memory.read rest a

/-- The image with the byte at address `a` set; the canonical form is kept (assumption 2). Only other agents of the
guest store: the block never does (20_memory.md R205). -/
def Memory.write : Memory → Nat → Byte → Memory
  | [], a, v => if v = Config.unlistedByte then [] else [(a, v)]
  | (k, w) :: rest, a, v =>
    if a < k then if v = Config.unlistedByte then (k, w) :: rest else (a, v) :: (k, w) :: rest
    else if a = k then if v = Config.unlistedByte then rest else (a, v) :: rest
    else (k, w) :: Memory.write rest a v

/-- The bytes of the image at `a, a+1, ..., a+n-1`, each address modulo 2^64 (20_memory.md R200). -/
def Memory.bytes (m : Memory) (a : Word) : Nat → List Byte
  | 0 => []
  | n + 1 => Memory.read m a.toNat :: Memory.bytes m (a + 1) n

/-- The image with the bytes `bs` at `a, a+1, ...`, each address modulo 2^64. -/
def Memory.writeBytes (m : Memory) (a : Word) : List Byte → Memory
  | [] => m
  | b :: rest => Memory.writeBytes (Memory.write m a.toNat b) (a + 1) rest

/-- What the image answers to `readPhysical(a, n)` (20_memory.md R200): the little-endian value of its bytes, or a
failure exactly where the address `a` is declared inaccessible (DEDUCED, assumption 8). -/
def imageAnswer (m : Memory) (inaccessible : List Nat) (a : Word) (n : ReadSize) : ReaderAnswer :=
  if inaccessible.contains a.toNat then .fail else .value (BitVec.ofNat 64 (le (m.bytes a n.bytes)))

/-! ### The memory reader -/

/-- The reader's own step: its answer to the call `readPhysical(a, n)`, and the answers left. A scripted value is
reduced below 2^(8n) (20_memory.md R200), so that every answer the interface allows, and no other, can be given. -/
def readerAnswer (s : State) (a : Word) (n : ReadSize) : ReaderAnswer × List ReaderAnswer :=
  match s.answers with
  | [] => (imageAnswer s.mem s.inaccessible a n, [])
  | .value v :: rest => (.value (BitVec.ofNat 64 (v.toNat % 2 ^ (8 * n.bytes))), rest)
  | .fail :: rest => (.fail, rest)
  | .never :: rest => (.never, .never :: rest)

/-- The record of one answered read (20_memory.md R220), with the reader's remaining answers. -/
def State.recordRead (s : State) (rest : List ReaderAnswer) (e : ReadEvent) : State :=
  { s with answers := rest, readLog := s.readLog ++ [e] }

/-! ### Ending a command (60_exceptions.md R702) -/

/-- The phase: the top of the frame stack (10_state.md R120). -/
def State.phase (s : State) : Phase :=
  match s.walk, s.range, s.table with
  | some _, _, _ => .walk
  | none, some _, _ => .range
  | none, none, some _ => .table
  | none, none, none => .idle

/-- The end of a command: RSP is written, CMD no longer holds the command (10_state.md R102), the frames are
discarded, so the phase is IDLE. -/
def State.endCommand (s : State) (r : Response) : State :=
  { s with cmd := none, rsp := some r, walk := none, range := none, table := none }

/-- `return r` (R702): status 0 and the result record. -/
def State.complete (s : State) (p : Payload) : State := s.endCommand { status := 0, payload := p }

/-- `raise E(info)` (R702): the code of E and its information record, nothing else returned. -/
def State.raise (s : State) (e : ErrInfo) : State := s.endCommand { status := errorCode e, payload := .error e }

/-- A command starts only in an idle block (R811); elsewhere the model refuses it. -/
def State.startCommand (s : State) (k : State → State) : Host.Outcome State Fault Refusal :=
  if s.phase = .idle then .next (k s) else .refused .commandWhileBusy

/-- The abort input, sampled after an answered read when another read is about to be issued (R712, R705): set, the
command ends with `Aborted`; not set, it goes on. -/
def State.sampleAbort (s : State) : State :=
  match s.aborts with
  | [] => s
  | false :: rest => { s with aborts := rest }
  | true :: rest => State.raise { s with aborts := rest } .aborted

/-- `MemRead(a, n)` (20_memory.md R201) and what follows it: a value goes on with `k`, a failure ends the command with
`HostReadFailure(a)`, and a read that is never answered leaves the state as it is (70_reset_and_hazards.md R820). -/
def memRead (s : State) (a : Word) (n : ReadSize) (k : Word → State → Fetched) : Fetched :=
  match readerAnswer s a n with
  | (.value v, rest) => k v (s.recordRead rest { addr := a, size := n, answer := some v })
  | (.fail, rest) => .done ((s.recordRead rest { addr := a, size := n, answer := none }).raise (.hostReadFailure a))
  | (.never, _) => .done s

/-! ### Frames -/

/-- `M` as a number. -/
def State.m (s : State) : Nat := s.cfgM.toNat

/-- The address-width check at `CFG_VA_BITS` (41_translation.md R429). -/
def State.acceptsVa (s : State) (va : Word) : Bool := canonical s.cfgVaBits.toNat va

/-- The WALK frame before the first read of a walk (41_translation.md R430). -/
def firstWalkFrame (root va : Word) : WalkFrame where
  root := root
  va := va
  split := splitAddress va
  level := .l4
  tableBase := root
  entries := []

/-- The entry a WALK frame decodes from `raw` (41_translation.md R430): its level, its table, its index. -/
def WalkFrame.entry (f : WalkFrame) (M : Nat) (raw : Word) : Entry :=
  decodeEntry M f.level f.tableBase (levelIndex f.split f.level) raw

/-- The size of the data read that READ issues at `pa` with `chunkLeft` bytes left (42_linear_read.md R502). -/
def dataReadSize (pa chunkLeft : Word) : ReadSize :=
  if pa.toNat % 8 = 0 ∧ 8 ≤ chunkLeft.toNat then .b8 else .b1

/-- `limit + 1`, the size of a table in bytes. -/
def TableFrame.bytes (t : TableFrame) : Nat := t.limit.toNat + 1

/-- The 16 bytes from the cursor of a table's buffer, as their little-endian value; the bytes past the buffer's end
read 0 and are looked at by no rule. -/
def slotValue (buf : List Byte) (off : Nat) : Word128 := BitVec.ofNat 128 (le ((buf.drop off).take 16))

end Sys2Proof.Machine
end

