-- ==== Sys2Proof/Machine/Extract.lean ====
section
/-!
DEFINITION. Machine/Extract.lean: the meanings of BITS (spec/40_bitfield.md R401) and of the opcodes that select no
command (30_encoding.md R302).
-/

namespace Sys2Proof.Machine

/-- BITS (40_bitfield.md R401). -/
def execBits (value : Word128) (start nbits : BitVec 8) (s : State) : Host.Outcome State Fault Refusal :=
  s.startCommand fun s => s.complete (.bits (BitVec.ofNat 128 (bits value.toNat start.toNat nbits.toNat)))

/-- An illegal opcode (30_encoding.md R302): `raise IllegalCommand(opcode)`, no read. -/
def execIllegalCommand (opcode : BitVec 8) (s : State) : Host.Outcome State Fault Refusal :=
  s.startCommand fun s => s.raise (.illegalCommand opcode)

end Sys2Proof.Machine
end

