-- ==== Sys2Proof/Machine/Frames.lean ====
section
/-!
DEFINITION. Machine/Frames.lean: how the sequencer's frames begin and end (spec/10_state.md R120 to R124): a walk
(41_translation.md R430), a range read page by page (42_linear_read.md R500), and what the end of the inner one hands
to the outer one (60_exceptions.md R711).
-/

namespace Sys2Proof.Machine

/-- The start of a walk (41_translation.md R430): the address-width check before any read, then the WALK frame at
level 4 with `root` verbatim as the table base. -/
def State.beginWalk (s : State) (root va : Word) : State :=
  if s.acceptsVa va then { s with walk := some (firstWalkFrame root va) } else s.raise (.addressWidthViolation va)

/-- The end of a READ with its bytes: the command's result, or, inside a table command, the table's buffer
(43_segment_descriptors.md R570, 44_gate_descriptors.md R610). -/
def State.endRange (s : State) (out : List Byte) : State :=
  match s.table with
  | none => s.complete (.bytes out)
  | some t => { s with walk := none, range := none, table := some { t with buf := some out } }

/-- The head of READ's loop over pages (42_linear_read.md R500): no byte left ends the READ; else the page of `cur` is
walked, after the address-width check of that page. `afterRead` says that a read of this command has just been answered,
so that the abort input is sampled if another one follows (60_exceptions.md R712). -/
def State.rangeLoop (s : State) (r : RangeFrame) (afterRead : Bool) : State :=
  if r.remaining = 0 then s.endRange r.out
  else if s.acceptsVa r.cur then
    let s' := { s with range := some r, walk := some (firstWalkFrame r.root r.cur) }
    if afterRead then s'.sampleAbort else s'
  else s.raise (.addressWidthViolation r.cur)

/-- The start of READ(root, va, length) (42_linear_read.md R500). -/
def State.beginRange (s : State) (root va length : Word) : State :=
  s.rangeLoop { root := root, cur := va, remaining := length, out := [], copy := none } false

/-- The start of a table command (43_segment_descriptors.md R570, R572): the TABLE frame, and one READ of `limit + 1`
bytes at `base`. -/
def State.beginTable (s : State) (kind : TableKind) (root base : Word) (limit : BitVec 16) : State :=
  let t : TableFrame :=
    { kind := kind, root := root, base := base, limit := limit, buf := none, off := 0, segs := [], gates := [] }
  State.beginRange { s with table := some t } root base (BitVec.ofNat 64 t.bytes)

/-- The chunk that a resolved page gives (42_linear_read.md R501): the smaller of the bytes left in the page and in the
request. -/
def chunkLength (pageSize : Nat) (pageOffset : BitVec 30) (remaining : Word) : Nat :=
  min (pageSize - pageOffset.toNat) remaining.toNat

/-- The RANGE frame at the start of a chunk (42_linear_read.md R500, R501): the copy begins at
`pageBase + pageOffset` (41_translation.md R437). -/
def RangeFrame.beginChunk (r : RangeFrame) (pageBase : Word) (pageSize : Nat) (pageOffset : BitVec 30) : RangeFrame :=
  let chunk := BitVec.ofNat 64 (chunkLength pageSize pageOffset r.remaining)
  { r with copy := some { pa := pageBase + pageOffset.setWidth 64, chunkLeft := chunk, chunk := chunk } }

/-- The end of a walk with its result. Outside a READ the result is RESOLVE's (41_translation.md R432, R433). Inside one
an unmapped page is the error `UnmappedRange(cur)` (42_linear_read.md R504) and a mapped one starts its chunk, with a
data read to follow. -/
def State.endWalk (s : State) (t : TranslationResult) : State :=
  match s.range with
  | none => s.complete (.translation t)
  | some r =>
    match t.pageBase, t.pageSize, t.pageOffset with
    | some base, some size, some offset =>
      State.sampleAbort { s with walk := none, range := some (r.beginChunk base size offset) }
    | _, _, _ => s.raise (.unmappedRange r.cur)

/-- The RANGE frame after a chunk (42_linear_read.md R500): the cursor moves on modulo 2^64. -/
def RangeFrame.endChunk (r : RangeFrame) (c : CopyState) : RangeFrame :=
  { r with cur := r.cur + c.chunk, remaining := r.remaining - c.chunk, copy := none }

/-- The RANGE frame and the copy after a data read of `n` bytes answered `v` (42_linear_read.md R500, R502). -/
def RangeFrame.take (r : RangeFrame) (c : CopyState) (n : Nat) (v : Word) : RangeFrame × CopyState :=
  let c' := { c with pa := c.pa + BitVec.ofNat 64 n, chunkLeft := c.chunkLeft - BitVec.ofNat 64 n }
  ({ r with out := r.out ++ bytesLE v.toNat n, copy := some c' }, c')

/-- After a data read (42_linear_read.md R500): the chunk goes on with another data read, or the loop over pages does. -/
def State.afterDataRead (s : State) (r : RangeFrame) (c : CopyState) (n : Nat) (v : Word) : State :=
  let (r', c') := r.take c n v
  if c'.chunkLeft = 0 then s.rangeLoop (r'.endChunk c') true
  else State.sampleAbort { s with range := some r' }

end Sys2Proof.Machine
end

