-- ==== Sys2Proof/Machine/Segments.lean ====
section
/-!
DEFINITION. Machine/Segments.lean: SEG.CREATE and GDT (spec/43_segment_descriptors.md R560, R570) and the eighteen
rows of a GDT slot (30_encoding.md R323), each the rest of one iteration of the GDT loop after the slot's low 8 bytes
have selected the row.
-/

namespace Sys2Proof.Machine

/-- SEG.CREATE (43_segment_descriptors.md R560), its checks in their order (60_exceptions.md R704). -/
def execSegCreate (n : BitVec 8) (b : Word128) (s : State) : Host.Outcome State Fault Refusal :=
  s.startCommand fun s =>
    if 16 < n.toNat then s.raise (.illegalOperand 0x06)
    else if n.toNat < 8 then s.raise (.insufficientBytes n 8)
    else
      let d := field b 0 64
      match classify d with
      | none => s.raise (.unsupportedDescriptor (field d 40 4) 0)
      | some k =>
        if n.toNat < k.size then s.raise (.insufficientBytes n (BitVec.ofNat 8 k.size))
        else s.complete (.segment (decodeSeg k b))

/-- GDT (43_segment_descriptors.md R570), up to its first read. -/
def execGdt (root base : Word) (limit : BitVec 16) (s : State) : Host.Outcome State Fault Refusal :=
  s.startCommand fun s => s.beginTable .gdt root base limit

/-! ### The slot rows -/

/-- A slot row runs where the TABLE frame is on top, has its buffer, is of the row's kind, and `stride` bytes or more
lie between the cursor and the end of the table. -/
def State.inSlot (s : State) (kind : TableKind) (stride : Nat) (k : TableFrame → List Byte → State) :
    Host.Outcome State Fault Refusal :=
  if s.phase = .table then
    match s.table with
    | some t =>
      match t.buf with
      | some buf =>
        if t.kind = kind ∧ t.off + stride ≤ t.bytes then .next (k t buf) else .refused .slotOutsideTable
      | none => .refused .slotOutsideTable
    | none => .refused .slotOutsideTable
  else .refused .slotOutsideTable

/-- The TABLE frame with one more descriptor, the cursor moved by that descriptor's own size
(43_segment_descriptors.md R559, R571). -/
def TableFrame.appendSeg (t : TableFrame) (x : SegDesc) : TableFrame :=
  { t with off := t.off + x.size, segs := t.segs ++ [x] }

/-- An 8-byte descriptor (43_segment_descriptors.md R570). -/
def segShort (k : SegKind) (d : Word) (s : State) : Host.Outcome State Fault Refusal :=
  s.inSlot .gdt 8 fun t _ => { s with table := some (t.appendSeg (decodeSeg k (d.setWidth 128))) }

/-- A 16-byte descriptor (43_segment_descriptors.md R570): truncated when fewer than 16 bytes are left; else the upper
8 bytes are read from the buffer (R556). -/
def segLong (k : SegKind) (d : Word) (s : State) : Host.Outcome State Fault Refusal :=
  s.inSlot .gdt 8 fun t buf =>
    if t.bytes - t.off < 16 then s.raise (.truncatedDescriptor (BitVec.ofNat 16 t.off))
    else { s with table := some (t.appendSeg (decodeSeg k (field (slotValue buf t.off) 64 64 ++ d))) }

/-- An unsupported descriptor (43_segment_descriptors.md R570, 30_encoding.md R324). -/
def segUnsupported (d : Word) (s : State) : Host.Outcome State Fault Refusal :=
  s.inSlot .gdt 8 fun t _ => s.raise (.unsupportedDescriptor (field d 40 4) (BitVec.ofNat 16 t.off))

/-- SEGDESC.DATA (43_segment_descriptors.md R554). -/
def execSegdescData (d : Word) (s : State) : Host.Outcome State Fault Refusal := segShort .data d s

/-- SEGDESC.CODE (43_segment_descriptors.md R555). -/
def execSegdescCode (d : Word) (s : State) : Host.Outcome State Fault Refusal := segShort .code d s

/-- SEGDESC.NULL (43_segment_descriptors.md R553). -/
def execSegdescNull (d : Word) (s : State) : Host.Outcome State Fault Refusal := segShort .null d s

/-- SEGDESC.CALLGATE (43_segment_descriptors.md R557). -/
def execSegdescCallgate (d : Word) (s : State) : Host.Outcome State Fault Refusal := segLong .callgate d s

/-- SEGDESC.TSS.T9 (43_segment_descriptors.md R556). -/
def execSegdescTssT9 (d : Word) (s : State) : Host.Outcome State Fault Refusal := segLong .tss d s

/-- SEGDESC.TSS.TB (43_segment_descriptors.md R556). -/
def execSegdescTssTB (d : Word) (s : State) : Host.Outcome State Fault Refusal := segLong .tss d s

/-- SEGDESC.TSS.TD (43_segment_descriptors.md R556). -/
def execSegdescTssTD (d : Word) (s : State) : Host.Outcome State Fault Refusal := segLong .tss d s

/-- SEGDESC.UNSUPPORTED.T1 (30_encoding.md R324): `raise UnsupportedDescriptor(0x1, off)`. -/
def execSegdescUnsupportedT1 (d : Word) (s : State) : Host.Outcome State Fault Refusal := segUnsupported d s

/-- SEGDESC.UNSUPPORTED.T2 (30_encoding.md R324): `raise UnsupportedDescriptor(0x2, off)`. -/
def execSegdescUnsupportedT2 (d : Word) (s : State) : Host.Outcome State Fault Refusal := segUnsupported d s

/-- SEGDESC.UNSUPPORTED.T3 (30_encoding.md R324): `raise UnsupportedDescriptor(0x3, off)`. -/
def execSegdescUnsupportedT3 (d : Word) (s : State) : Host.Outcome State Fault Refusal := segUnsupported d s

/-- SEGDESC.UNSUPPORTED.T4 (30_encoding.md R324): `raise UnsupportedDescriptor(0x4, off)`. -/
def execSegdescUnsupportedT4 (d : Word) (s : State) : Host.Outcome State Fault Refusal := segUnsupported d s

/-- SEGDESC.UNSUPPORTED.T5 (30_encoding.md R324): `raise UnsupportedDescriptor(0x5, off)`. -/
def execSegdescUnsupportedT5 (d : Word) (s : State) : Host.Outcome State Fault Refusal := segUnsupported d s

/-- SEGDESC.UNSUPPORTED.T6 (30_encoding.md R324): `raise UnsupportedDescriptor(0x6, off)`. -/
def execSegdescUnsupportedT6 (d : Word) (s : State) : Host.Outcome State Fault Refusal := segUnsupported d s

/-- SEGDESC.UNSUPPORTED.T7 (30_encoding.md R324): `raise UnsupportedDescriptor(0x7, off)`. -/
def execSegdescUnsupportedT7 (d : Word) (s : State) : Host.Outcome State Fault Refusal := segUnsupported d s

/-- SEGDESC.UNSUPPORTED.T8 (30_encoding.md R324): `raise UnsupportedDescriptor(0x8, off)`. -/
def execSegdescUnsupportedT8 (d : Word) (s : State) : Host.Outcome State Fault Refusal := segUnsupported d s

/-- SEGDESC.UNSUPPORTED.TA (30_encoding.md R324): `raise UnsupportedDescriptor(0xA, off)`. -/
def execSegdescUnsupportedTA (d : Word) (s : State) : Host.Outcome State Fault Refusal := segUnsupported d s

/-- SEGDESC.UNSUPPORTED.TC (30_encoding.md R324): `raise UnsupportedDescriptor(0xC, off)`. -/
def execSegdescUnsupportedTC (d : Word) (s : State) : Host.Outcome State Fault Refusal := segUnsupported d s

/-- SEGDESC.UNSUPPORTED.TE (30_encoding.md R324): `raise UnsupportedDescriptor(0xE, off)`. -/
def execSegdescUnsupportedTE (d : Word) (s : State) : Host.Outcome State Fault Refusal := segUnsupported d s

end Sys2Proof.Machine
end

