-- ==== Sys2Proof/Machine/Gates.lean ====
section
/-!
DEFINITION. Machine/Gates.lean: GATE.DECODE and IDT (spec/44_gate_descriptors.md R601, R610) and the row of an IDT
slot (30_encoding.md R325).
-/

namespace Sys2Proof.Machine

/-- GATE.DECODE (44_gate_descriptors.md R601). -/
def execGateDecode (b : Word128) (s : State) : Host.Outcome State Fault Refusal :=
  s.startCommand fun s => s.complete (.gate (decodeGate b))

/-- IDT (44_gate_descriptors.md R610), up to its first read. -/
def execIdt (root base : Word) (limit : BitVec 16) (s : State) : Host.Outcome State Fault Refusal :=
  s.startCommand fun s => s.beginTable .idt root base limit

/-- GATEDESC (44_gate_descriptors.md R600, R610): one more gate, the cursor moved by 16. -/
def execGatedesc (q : Word128) (s : State) : Host.Outcome State Fault Refusal :=
  s.inSlot .idt 16 fun t _ => { s with table := some { t with off := t.off + 16, gates := t.gates ++ [decodeGate q] } }

end Sys2Proof.Machine
end

