-- ==== Sys2Proof/Machine/LinearRead.lean ====
section
/-!
DEFINITION. Machine/LinearRead.lean: READ (spec/42_linear_read.md R500), and the step of its copy loop.
-/

namespace Sys2Proof.Machine

/-- READ (42_linear_read.md R500), up to its first read. -/
def execRead (root va length : Word) (s : State) : Host.Outcome State Fault Refusal :=
  s.startCommand fun s => s.beginRange root va length

/-- One step of READ outside a walk (42_linear_read.md R505): one data read of the chunk being copied, of the size of
R502. The other two cases are loop ends that no run meets between two steps. -/
def rangeStep (s : State) (r : RangeFrame) : Fetched :=
  match r.copy with
  | none => .done (s.rangeLoop r false)
  | some c =>
    if c.chunkLeft = 0 then .done (s.rangeLoop (r.endChunk c) false)
    else
      let n := dataReadSize c.pa c.chunkLeft
      memRead s c.pa n fun v s' => .done (s'.afterDataRead r c n.bytes v)

end Sys2Proof.Machine
end

