-- ==== Sys2Proof/Machine/Translation.lean ====
section
/-!
DEFINITION. Machine/Translation.lean: SPLIT, PTE.DECODE, RESOLVE (spec/41_translation.md R421, R428, R430) and the
thirteen entry rows (30_encoding.md R319), each the rest of one iteration of the walk's loop after its read has been
answered (41_translation.md R431).
-/

namespace Sys2Proof.Machine

/-- SPLIT (41_translation.md R421). -/
def execSplit (va : Word) (s : State) : Host.Outcome State Fault Refusal :=
  s.startCommand fun s => s.complete (.split (splitAddress va))

/-- The level an operand byte names (30_encoding.md R303, R304). -/
def levelOfByte (b : BitVec 8) : Option Level :=
  match b.toNat with
  | 1 => some .l1
  | 2 => some .l2
  | 3 => some .l3
  | 4 => some .l4
  | _ => none

/-- PTE.DECODE (41_translation.md R428). -/
def execPteDecode (level : BitVec 8) (tableBase : Word) (index : BitVec 16) (raw : Word) (s : State) :
    Host.Outcome State Fault Refusal :=
  s.startCommand fun s =>
    match levelOfByte level with
    | none => s.raise (.illegalOperand 0x03)
    | some L =>
      if Config.entries ≤ index.toNat then s.raise (.illegalOperand 0x03)
      else s.complete (.entry (decodeEntry s.m L tableBase (index.setWidth 9) raw))

/-- RESOLVE (41_translation.md R430), up to its first read. -/
def execResolve (root va : Word) (s : State) : Host.Outcome State Fault Refusal :=
  s.startCommand fun s => s.beginWalk root va

/-! ### The entry rows -/

/-- An entry row runs where a WALK frame waits for an entry of level `L`. -/
def State.inWalk (s : State) (L : Level) (k : WalkFrame → State) : Host.Outcome State Fault Refusal :=
  match s.walk with
  | some f => if f.level = L then .next (k f) else .refused .entryOutsideWalk
  | none => .refused .entryOutsideWalk

/-- The walk stops at a not-present entry: unmapped, with the entries visited (41_translation.md R433). -/
def walkUnmapped (L : Level) (raw : Word) (s : State) : Host.Outcome State Fault Refusal :=
  s.inWalk L fun f =>
    s.endWalk { pageBase := none, pageSize := none, pageOffset := none, entries := f.entries ++ [f.entry s.m raw] }

/-- The walk stops at a present leaf: mapped (41_translation.md R432). -/
def walkMapped (L : Level) (raw : Word) (s : State) : Host.Outcome State Fault Refusal :=
  s.inWalk L fun f =>
    let e := f.entry s.m raw
    s.endWalk
      { pageBase := some e.base, pageSize := some (2 ^ e.frameShift), pageOffset := some (levelOffset f.split L)
        entries := f.entries ++ [e] }

/-- The walk goes down from level `L` to level `lower` (41_translation.md R430): the next table is at
`frameRef << 12`. Another read follows, so the abort input is sampled. -/
def walkDescend (L lower : Level) (raw : Word) (s : State) : Host.Outcome State Fault Refusal :=
  s.inWalk L fun f =>
    let e := f.entry s.m raw
    let f' := { f with level := lower, tableBase := BitVec.ofNat 64 (e.frameRef <<< 12), entries := f.entries ++ [e] }
    State.sampleAbort { s with walk := some f' }

/-- PTE.L4.P0: stop, unmapped (30_encoding.md R319). -/
def execPteL4P0 (raw : Word) (s : State) : Host.Outcome State Fault Refusal := walkUnmapped .l4 raw s

/-- PTE.L4.P1.PS0: descend to level 3. -/
def execPteL4P1PS0 (raw : Word) (s : State) : Host.Outcome State Fault Refusal := walkDescend .l4 .l3 raw s

/-- PTE.L4.P1.PS1: descend to level 3 as if bit 7 were clear; the entry is faulty (41_translation.md R438). -/
def execPteL4P1PS1 (raw : Word) (s : State) : Host.Outcome State Fault Refusal := walkDescend .l4 .l3 raw s

/-- PTE.L3.P0.PS0: stop, unmapped. -/
def execPteL3P0PS0 (raw : Word) (s : State) : Host.Outcome State Fault Refusal := walkUnmapped .l3 raw s

/-- PTE.L3.P0.PS1: stop, unmapped; the entry has leaf form (D8). -/
def execPteL3P0PS1 (raw : Word) (s : State) : Host.Outcome State Fault Refusal := walkUnmapped .l3 raw s

/-- PTE.L3.P1.PS0: descend to level 2. -/
def execPteL3P1PS0 (raw : Word) (s : State) : Host.Outcome State Fault Refusal := walkDescend .l3 .l2 raw s

/-- PTE.L3.P1.PS1: stop, mapped 1 GiB. -/
def execPteL3P1PS1 (raw : Word) (s : State) : Host.Outcome State Fault Refusal := walkMapped .l3 raw s

/-- PTE.L2.P0.PS0: stop, unmapped. -/
def execPteL2P0PS0 (raw : Word) (s : State) : Host.Outcome State Fault Refusal := walkUnmapped .l2 raw s

/-- PTE.L2.P0.PS1: stop, unmapped; the entry has leaf form (D8). -/
def execPteL2P0PS1 (raw : Word) (s : State) : Host.Outcome State Fault Refusal := walkUnmapped .l2 raw s

/-- PTE.L2.P1.PS0: descend to level 1. -/
def execPteL2P1PS0 (raw : Word) (s : State) : Host.Outcome State Fault Refusal := walkDescend .l2 .l1 raw s

/-- PTE.L2.P1.PS1: stop, mapped 2 MiB. -/
def execPteL2P1PS1 (raw : Word) (s : State) : Host.Outcome State Fault Refusal := walkMapped .l2 raw s

/-- PTE.L1.P0: stop, unmapped. -/
def execPteL1P0 (raw : Word) (s : State) : Host.Outcome State Fault Refusal := walkUnmapped .l1 raw s

/-- PTE.L1.P1: stop, mapped 4 KiB. -/
def execPteL1P1 (raw : Word) (s : State) : Host.Outcome State Fault Refusal := walkMapped .l1 raw s

end Sys2Proof.Machine
end

