-- ==== Sys2Proof/Machine/Dispatch.lean ====
section
/-!
DEFINITION. Machine/Dispatch.lean: one arm per row of spec/opcode_table.json, each a call of that row's meaning.
-/

namespace Sys2Proof.Machine

/-- The meaning of an instruction. -/
def exec (i : Instr) (s : State) : Host.Outcome State Fault Refusal :=
  match i with
  | .bits value start nbits => Sys2Proof.Machine.execBits value start nbits s
  | .split va => Sys2Proof.Machine.execSplit va s
  | .pteDecode level tableBase index raw => Sys2Proof.Machine.execPteDecode level tableBase index raw s
  | .resolve root va => Sys2Proof.Machine.execResolve root va s
  | .read root va length => Sys2Proof.Machine.execRead root va length s
  | .segCreate n b => Sys2Proof.Machine.execSegCreate n b s
  | .gateDecode b => Sys2Proof.Machine.execGateDecode b s
  | .gdt root base limit => Sys2Proof.Machine.execGdt root base limit s
  | .idt root base limit => Sys2Proof.Machine.execIdt root base limit s
  | .illegalCommand opcode => Sys2Proof.Machine.execIllegalCommand opcode s
  | .pteL4P0 raw => Sys2Proof.Machine.execPteL4P0 raw s
  | .pteL4P1PS0 raw => Sys2Proof.Machine.execPteL4P1PS0 raw s
  | .pteL4P1PS1 raw => Sys2Proof.Machine.execPteL4P1PS1 raw s
  | .pteL3P0PS0 raw => Sys2Proof.Machine.execPteL3P0PS0 raw s
  | .pteL3P0PS1 raw => Sys2Proof.Machine.execPteL3P0PS1 raw s
  | .pteL3P1PS0 raw => Sys2Proof.Machine.execPteL3P1PS0 raw s
  | .pteL3P1PS1 raw => Sys2Proof.Machine.execPteL3P1PS1 raw s
  | .pteL2P0PS0 raw => Sys2Proof.Machine.execPteL2P0PS0 raw s
  | .pteL2P0PS1 raw => Sys2Proof.Machine.execPteL2P0PS1 raw s
  | .pteL2P1PS0 raw => Sys2Proof.Machine.execPteL2P1PS0 raw s
  | .pteL2P1PS1 raw => Sys2Proof.Machine.execPteL2P1PS1 raw s
  | .pteL1P0 raw => Sys2Proof.Machine.execPteL1P0 raw s
  | .pteL1P1 raw => Sys2Proof.Machine.execPteL1P1 raw s
  | .segdescData d => Sys2Proof.Machine.execSegdescData d s
  | .segdescCode d => Sys2Proof.Machine.execSegdescCode d s
  | .segdescNull d => Sys2Proof.Machine.execSegdescNull d s
  | .segdescCallgate d => Sys2Proof.Machine.execSegdescCallgate d s
  | .segdescTssT9 d => Sys2Proof.Machine.execSegdescTssT9 d s
  | .segdescTssTB d => Sys2Proof.Machine.execSegdescTssTB d s
  | .segdescTssTD d => Sys2Proof.Machine.execSegdescTssTD d s
  | .segdescUnsupportedT1 d => Sys2Proof.Machine.execSegdescUnsupportedT1 d s
  | .segdescUnsupportedT2 d => Sys2Proof.Machine.execSegdescUnsupportedT2 d s
  | .segdescUnsupportedT3 d => Sys2Proof.Machine.execSegdescUnsupportedT3 d s
  | .segdescUnsupportedT4 d => Sys2Proof.Machine.execSegdescUnsupportedT4 d s
  | .segdescUnsupportedT5 d => Sys2Proof.Machine.execSegdescUnsupportedT5 d s
  | .segdescUnsupportedT6 d => Sys2Proof.Machine.execSegdescUnsupportedT6 d s
  | .segdescUnsupportedT7 d => Sys2Proof.Machine.execSegdescUnsupportedT7 d s
  | .segdescUnsupportedT8 d => Sys2Proof.Machine.execSegdescUnsupportedT8 d s
  | .segdescUnsupportedTA d => Sys2Proof.Machine.execSegdescUnsupportedTA d s
  | .segdescUnsupportedTC d => Sys2Proof.Machine.execSegdescUnsupportedTC d s
  | .segdescUnsupportedTE d => Sys2Proof.Machine.execSegdescUnsupportedTE d s
  | .gatedesc q => Sys2Proof.Machine.execGatedesc q s

end Sys2Proof.Machine
end

