-- ==== Sys2Proof/Machine/Sequencer.lean ====
section
/-!
DEFINITION. Machine/Sequencer.lean: which agent moves and what it has in hand (spec/10_state.md R100, R120, R121): the
fetch of an instruction from CMD, from the answer to a walker's read, or from a table's buffer; the reads of READ; the
caller's moves; construction (70_reset_and_hazards.md R800 to R802).
-/

namespace Sys2Proof.Machine

/-! ### The caller -/

/-- The caller's own step in an idle block with an empty CMD (10_state.md R100, R102): it writes its next command. With
none to write, nothing happens: only a new command wakes the block (60_exceptions.md R725). -/
def State.callerStep (s : State) : State :=
  match s.commands with
  | [] => s
  | w :: rest => { s with cmd := some w, commands := rest }

/-- The caller writes CMD (10_state.md R102). A write while a command runs is refused (70_reset_and_hazards.md R811). -/
def State.issueCommand (s : State) (w : CommandWord) : Host.Outcome State Fault Refusal :=
  if s.phase = .idle ∧ s.cmd = none then .next { s with cmd := some w } else .refused .commandWhileBusy

/-- The caller reads RSP (10_state.md R103); before the first command has ended there is nothing to read (R130). -/
def State.readResponse (s : State) : Host.Outcome Response Fault Refusal :=
  match s.rsp with
  | some r => .next r
  | none => .refused .responseNotReady

/-- Another agent of the guest stores a byte (20_memory.md R224): no command of the block does. -/
def State.guestStore (s : State) (a : Word) (v : Byte) : State := { s with mem := s.mem.write a.toNat v }

/-! ### The block -/

/-- One step of a table command once no READ of it runs. The loop's test (43_segment_descriptors.md R570,
44_gate_descriptors.md R610): with less than a slot left the command ends with its list; else the slot at the cursor is
the next instruction. A frame without its buffer starts the table's READ; no run meets one between two steps. -/
def tableStep (s : State) (t : TableFrame) : Fetched :=
  match t.buf with
  | none => .done (s.beginRange t.root t.base (BitVec.ofNat 64 t.bytes))
  | some buf =>
    match t.kind with
    | .gdt =>
      if t.bytes - t.off < 8 then .done (s.complete (.segments t.segs))
      else .run (segmentRow (field (slotValue buf t.off) 0 64)) s
    | .idt =>
      if t.bytes - t.off < 16 then .done (s.complete (.gates t.gates))
      else .run (gateRow (slotValue buf t.off)) s

/-- One step of the walker (41_translation.md R431): it reads the entry of its level and has that entry's row to run. -/
def walkStep (s : State) (f : WalkFrame) : Fetched :=
  memRead s (entryAddress f.tableBase (levelIndex f.split f.level)) .b8 fun raw s' => .run (entryRow f.level raw) s'

/-- The fetch: the top frame says what comes next; with no frame the command of CMD is started, or the caller moves. -/
def fetch (s : State) : Fetched :=
  match s.walk, s.range, s.table, s.cmd with
  | some f, _, _, _ => walkStep s f
  | none, some r, _, _ => rangeStep s r
  | none, none, some t, _ => tableStep s t
  | none, none, none, some w => .run (decodeCommand w) s
  | none, none, none, none => .done s.callerStep

/-! ### Construction -/

/-- Construction (70_reset_and_hazards.md R800): a block for `X86_64` with 32 ≤ M ≤ 52, or one of the two failures
(R801, R802), after which no block exists. -/
def State.construct (arch : BitVec 8) (m : Nat) : Host.Outcome State Fault Refusal :=
  if arch ≠ Config.archX86_64 then .fault .unsupportedArchitecture
  else if m < Config.minM ∨ Config.maxM < m then .fault .invalidConfiguration
  else .next (State.constructed arch (BitVec.ofNat 8 m))

/-! ### Placing one instruction where the next step takes it -/

/-- An idle block that holds the command `w`. -/
def State.holdingCommand (s : State) (w : CommandWord) : State :=
  { s with cmd := some w, walk := none, range := none, table := none }

/-- A table command that has read a table of one 16-byte slot `v` and is about to decode it. -/
def State.atSlot (s : State) (kind : TableKind) (v : Nat) : State :=
  let t : TableFrame :=
    { kind := kind, root := 0, base := 0, limit := 15, buf := some (bytesLE v 16), off := 0, segs := [], gates := [] }
  { s with walk := none, range := none, table := some t }

/-- The instruction of the bits `w` of a table row (Decode.lean, `tableWordKind`) placed so that the next step runs it. -/
def State.placeWord (s : State) (nbits w : Nat) : State :=
  match tableWordKind nbits with
  | .segment => s.atSlot .gdt (w % 2 ^ nbits)
  | .gate => s.atSlot .idt (w % 2 ^ nbits)
  | .command | .entry _ => s.holdingCommand (BitVec.ofNat 200 (w % 2 ^ nbits))

end Sys2Proof.Machine
end

