-- ==== Sys2Proof/Machine/Step.lean ====
section
/-!
DEFINITION. Machine/Step.lean: one step of a run. The fetch (Machine/Sequencer.lean) says what the agent whose turn it
is has in hand: an instruction, which `exec` runs, or a move that is already done.
-/

namespace Sys2Proof.Machine

/-- One step. -/
def step (s : State) : Host.Outcome State Fault Refusal :=
  match fetch s with
  | .run i s' => exec i s'
  | .done s' => .next s'

/-- `s` with the instruction of the bits `w` (`nbits` of them, the rest zero) placed where the next step takes it: a
command in CMD of an idle block; a descriptor slot (see `tableWordKind`) in the buffer of a table command. -/
def State.withFetchWord (s : State) (nbits w : Nat) : State := s.placeWord nbits w

end Sys2Proof.Machine
end

