-- ==== Sys2Proof/Machine/Assembler.lean ====
section
/-!
DEFINITION. Machine/Assembler.lean: the command lines of spec/30_encoding.md R304 and the pseudo-instructions of R305.
A line is read from its characters, then assembled into one command. Nothing in the machine calls this file: the
assembler stands between a caller's text and the command word (`commandWord`).
-/

namespace Sys2Proof

/-- The forms of a line: the nine commands (R304) and the five pseudo-instructions (R305). Numbers are not yet checked
against the widths of their fields. -/
inductive AsmLine where
  | bits (value start nbits : Nat)
  | split (va : Nat)
  | pteDecode (level : Level) (tableBase index raw : Nat)
  | resolve (root va : Nat)
  | read (root va length : Nat)
  | segCreate (bs : List Nat)
  | gateDecode (bs : List Nat)
  | gdt (root base limit : Nat)
  | idt (root base limit : Nat)
  | readq (root va : Nat)
  | readb (root va : Nat)
  | segCreateQ (q : Nat)
  | segCreateO (lo hi : Nat)
  | gateDecodeO (lo hi : Nat)
deriving DecidableEq, Repr

/-- A number that fits a field of `w` bits (R301 gives the widths). -/
def fits (w n : Nat) : Option (BitVec w) := if n < 2 ^ w then some (BitVec.ofNat w n) else none

/-- The value of a list of at most 16 bytes, the unused ones 0x00 (R304). -/
def byteList (bs : List Nat) : Option Word128 :=
  if bs.length ≤ 16 ∧ bs.all fun b => decide (b < 256) then
    some (BitVec.ofNat 128 (le (bs.map fun b => BitVec.ofNat 8 b)))
  else none

/-- One line assembled into one command (R304, R305); none where a number does not fit its field. -/
def assemble : AsmLine → Option Instr
  | .bits value start nbits => do return .bits (← fits 128 value) (← fits 8 start) (← fits 8 nbits)
  | .split va => do return .split (← fits 64 va)
  | .pteDecode level tableBase index raw => do
    return .pteDecode (BitVec.ofNat 8 level.toNat) (← fits 64 tableBase) (← fits 16 index) (← fits 64 raw)
  | .resolve root va => do return .resolve (← fits 64 root) (← fits 64 va)
  | .read root va length => do return .read (← fits 64 root) (← fits 64 va) (← fits 64 length)
  | .segCreate bs => do return .segCreate (BitVec.ofNat 8 bs.length) (← byteList bs)
  | .gateDecode bs => if bs.length = 16 then do return .gateDecode (← byteList bs) else none
  | .gdt root base limit => do return .gdt (← fits 64 root) (← fits 64 base) (← fits 16 limit)
  | .idt root base limit => do return .idt (← fits 64 root) (← fits 64 base) (← fits 16 limit)
  | .readq root va => do return .read (← fits 64 root) (← fits 64 va) 8
  | .readb root va => do return .read (← fits 64 root) (← fits 64 va) 1
  | .segCreateQ q => do
    let q ← fits 64 q
    return .segCreate 8 (q.setWidth 128)
  | .segCreateO lo hi => do
    let lo ← fits 64 lo
    let hi ← fits 64 hi
    return .segCreate 16 (hi ++ lo)
  | .gateDecodeO lo hi => do
    let lo ← fits 64 lo
    let hi ← fits 64 hi
    return .gateDecode (hi ++ lo)

/-! ### From characters to lines -/

/-- The tokens of a line: words, commas and the brackets of a byte list. -/
inductive Token where
  | word (w : List Char)
  | comma
  | opening
  | closing
deriving DecidableEq, Repr

/-- The word read so far, as a token. -/
def flushWord (w : List Char) : List Token := if w.isEmpty then [] else [.word w]

/-- The tokens of a line, `w` the word read so far. Text from `;` to the end of the line is a comment (R304). -/
def lex (w : List Char) : List Char → List Token
  | [] => flushWord w
  | c :: rest =>
    if c = ';' then flushWord w
    else if c = ',' then flushWord w ++ .comma :: lex [] rest
    else if c = '[' then flushWord w ++ .opening :: lex [] rest
    else if c = ']' then flushWord w ++ .closing :: lex [] rest
    else if c = ' ' ∨ c = '\t' ∨ c = '\r' then flushWord w ++ lex [] rest
    else lex (w ++ [c]) rest

/-- The value of a digit, hexadecimal or decimal. -/
def digit (base : Nat) (c : Char) : Option Nat :=
  let n := c.toNat
  let v := if 48 ≤ n ∧ n ≤ 57 then n - 48 else if 65 ≤ n ∧ n ≤ 70 then n - 55 else if 97 ≤ n ∧ n ≤ 102 then n - 87 else base
  if v < base then some v else none

/-- The value of a list of digits, `acc` that of the digits before. -/
def digits (base acc : Nat) : List Char → Option Nat
  | [] => some acc
  | c :: rest => do digits base (acc * base + (← digit base c)) rest

/-- "A number is decimal or `0x`-prefixed hexadecimal" (R304). -/
def number : List Char → Option Nat
  | [] => none
  | '0' :: 'x' :: [] => none
  | '0' :: 'x' :: rest => digits 16 0 rest
  | w => digits 10 0 w

/-- The level names (R304): PML4 = L4, PDPT = L3, PD = L2, PT = L1. -/
def levelName : List Char → Option Level
  | ['L', '4'] | ['P', 'M', 'L', '4'] => some .l4
  | ['L', '3'] | ['P', 'D', 'P', 'T'] => some .l3
  | ['L', '2'] | ['P', 'D'] => some .l2
  | ['L', '1'] | ['P', 'T'] => some .l1
  | _ => none

/-- Numbers separated by commas, at least one. -/
def numbers : List Token → Option (List Nat)
  | [.word w] => do return [← number w]
  | .word w :: .comma :: rest => do return (← number w) :: (← numbers rest)
  | _ => none

/-- A bracketed list of numbers separated by commas, maybe empty. -/
def bracketed : List Token → Option (List Nat)
  | [.opening, .closing] => some []
  | .opening :: rest => if rest.getLast? = some .closing then numbers rest.dropLast else none
  | _ => none

/-- One command line (R304, R305); none for a blank line and for text that is no line of these forms. -/
def parseLine (text : List Char) : Option AsmLine :=
  match lex [] text with
  | .word ['B', 'I', 'T', 'S'] :: rest => do
    match ← numbers rest with | [value, start, nbits] => some (.bits value start nbits) | _ => none
  | .word ['S', 'P', 'L', 'I', 'T'] :: rest => do
    match ← numbers rest with | [va] => some (.split va) | _ => none
  | .word ['P', 'T', 'E', '.', 'D', 'E', 'C', 'O', 'D', 'E'] :: .word level :: .comma :: rest => do
    match ← numbers rest with
    | [tableBase, index, raw] => return .pteDecode (← levelName level) tableBase index raw
    | _ => none
  | .word ['R', 'E', 'S', 'O', 'L', 'V', 'E'] :: rest => do
    match ← numbers rest with | [root, va] => some (.resolve root va) | _ => none
  | .word ['R', 'E', 'A', 'D'] :: rest => do
    match ← numbers rest with | [root, va, length] => some (.read root va length) | _ => none
  | .word ['S', 'E', 'G', '.', 'C', 'R', 'E', 'A', 'T', 'E'] :: rest => do return .segCreate (← bracketed rest)
  | .word ['G', 'A', 'T', 'E', '.', 'D', 'E', 'C', 'O', 'D', 'E'] :: rest => do return .gateDecode (← bracketed rest)
  | .word ['G', 'D', 'T'] :: rest => do
    match ← numbers rest with | [root, base, limit] => some (.gdt root base limit) | _ => none
  | .word ['I', 'D', 'T'] :: rest => do
    match ← numbers rest with | [root, base, limit] => some (.idt root base limit) | _ => none
  | .word ['R', 'E', 'A', 'D', 'Q'] :: rest => do
    match ← numbers rest with | [root, va] => some (.readq root va) | _ => none
  | .word ['R', 'E', 'A', 'D', 'B'] :: rest => do
    match ← numbers rest with | [root, va] => some (.readb root va) | _ => none
  | .word ['S', 'E', 'G', '.', 'C', 'R', 'E', 'A', 'T', 'E', 'Q'] :: rest => do
    match ← numbers rest with | [q] => some (.segCreateQ q) | _ => none
  | .word ['S', 'E', 'G', '.', 'C', 'R', 'E', 'A', 'T', 'E', 'O'] :: rest => do
    match ← numbers rest with | [lo, hi] => some (.segCreateO lo hi) | _ => none
  | .word ['G', 'A', 'T', 'E', '.', 'D', 'E', 'C', 'O', 'D', 'E', 'O'] :: rest => do
    match ← numbers rest with | [lo, hi] => some (.gateDecodeO lo hi) | _ => none
  | _ => none

/-- The command word of a line of text. -/
def assembleText (text : List Char) : Option CommandWord := do
  return commandWord (← assemble (← parseLine text))

end Sys2Proof
end

