-- ==== Sys2Proof/Safety.lean ====
section
/-!
DEFINITION. Safety.lean: the terms the claims use: legal configurations, the invariants of the sequencer and of RSP,
and the commands of the spec written once more as whole procedures, in the shape of its pseudocode (spec/
41_translation.md R430, 42_linear_read.md R500, 43_segment_descriptors.md R570), for the claims that the machine's
steps carry them out. The machine itself calls nothing of this file.
-/

namespace Sys2Proof.Safety

open Sys2Proof.Machine

/-! ### Outcomes -/

/-- The state after a command has ended with `r` (60_exceptions.md R702): RSP is written, CMD and the frames are empty,
everything else is as it was. -/
def answered (s : State) (r : Response) : State :=
  { s with cmd := none, rsp := some r, walk := none, range := none, table := none }

/-- A successful response (60_exceptions.md R701: status 0 is OK). -/
def okay (p : Payload) : Response := { status := 0, payload := p }

/-- An error response with its status code. -/
def failed (code : BitVec 8) (e : ErrInfo) : Response := { status := code, payload := .error e }

/-- A block that is idle and whose command register holds `i`. -/
def Holds (s : State) (i : Instr) : Prop := s.phase = .idle ∧ ∃ w, s.cmd = some w ∧ decodeCommand w = i

/-- The other agents play no part: the reader answers every call from the image, and the caller never aborts. -/
def Undisturbed (s : State) : Prop := s.answers = [] ∧ s.aborts = []

/-- The run of `n` steps from `s` ends in the state `t`, with no fault and no refusal. -/
def RunsTo (n : Nat) (s t : State) : Prop := core.run n s = .next t

/-! ### Configurations (10_state.md R104, 70_reset_and_hazards.md R801, R802) -/

/-- A configuration that construction can leave. -/
structure ConfigLegal (s : State) : Prop where
  arch : s.cfgArch = Config.archX86_64
  vaBits : s.cfgVaBits = Config.vaBits
  minM : Config.minM ≤ s.m
  maxM : s.m ≤ Config.maxM

/-! ### The walk as one procedure (41_translation.md R430) -/

/-- The level below (00_scope.md R16). -/
def below : Level → Level
  | .l4 => .l3
  | .l3 => .l2
  | .l2 | .l1 => .l1

/-- `MemRead(a, 8)` on the image of `s` (20_memory.md R200, R201). -/
def imageEntry (s : State) (a : Word) : Except ErrInfo Word :=
  match imageAnswer s.mem s.inaccessible a .b8 with
  | .value v => .ok v
  | .fail | .never => .error (.hostReadFailure a)

/-- The loop of the walk (41_translation.md R430), at most `n` more levels, `L` the next one, `es` the entries so far. -/
def walkLoop (s : State) (sp : AddressSplit) : Nat → Level → Word → List Entry → Except ErrInfo TranslationResult
  | 0, _, _, es => .ok { pageBase := none, pageSize := none, pageOffset := none, entries := es }
  | n + 1, L, tableBase, es => do
    let i := levelIndex sp L
    let raw ← imageEntry s (entryAddress tableBase i)
    let e := decodeEntry s.m L tableBase i raw
    let es' := es ++ [e]
    if !e.present then
      return { pageBase := none, pageSize := none, pageOffset := none, entries := es' }
    else if e.form = .leaf then
      return { pageBase := some (BitVec.ofNat 64 (e.frameRef <<< e.frameShift)), pageSize := some (2 ^ e.frameShift)
               pageOffset := some (levelOffset sp L), entries := es' }
    else walkLoop s sp n (below L) (BitVec.ofNat 64 (e.frameRef <<< 12)) es'

/-- RESOLVE(root, va) on the image of `s`, as one procedure (41_translation.md R430). -/
def resolveProcedure (s : State) (root va : Word) : Except ErrInfo TranslationResult :=
  if s.acceptsVa va then walkLoop s (splitAddress va) 4 .l4 root [] else .error (.addressWidthViolation va)

/-- The response of a command that ends with the outcome `x`. -/
def responseOf (wrap : α → Payload) : Except ErrInfo α → Response
  | .ok r => { status := 0, payload := wrap r }
  | .error e => { status := errorCode e, payload := .error e }

/-- What the virtual byte at `va` is (41_translation.md R437): an error of its translation, or the physical address it
translates to. An unmapped page is READ's error (42_linear_read.md R504). -/
def physicalAddress (s : State) (root va : Word) : Except ErrInfo Word := do
  let r ← resolveProcedure s root va
  match r.pageBase, r.pageOffset with
  | some base, some offset => return base + offset.setWidth 64
  | _, _ => .error (.unmappedRange va)

/-- Every one of the `n` virtual bytes from `va` on, modulo 2^64, translates. -/
def AllTranslate (s : State) (root va : Word) (n : Nat) : Prop :=
  ∀ i, i < n → ∃ pa, physicalAddress s root (va + BitVec.ofNat 64 i) = .ok pa

/-- `bs` is the `n` bytes of the image at the physical addresses that the virtual bytes from `va` on translate to, in
virtual order (42_linear_read.md R506). -/
def TranslatedBytes (s : State) (root va : Word) (n : Nat) (bs : List Byte) : Prop :=
  bs.length = n ∧ ∀ i pa, i < n → physicalAddress s root (va + BitVec.ofNat 64 i) = .ok pa →
    bs[i]? = some (Memory.read s.mem pa.toNat)

/-- The commands that read the `n` virtual bytes from `va` on: READ, and the table commands, whose table has `limit + 1`
bytes at `base` (42_linear_read.md R500, 43_segment_descriptors.md R570, 44_gate_descriptors.md R610). -/
def ReadsRange (i : Instr) (root va : Word) (n : Nat) : Prop :=
  (∃ length, i = .read root va length ∧ n = length.toNat) ∨
    ∃ limit, (i = .gdt root va limit ∨ i = .idt root va limit) ∧ n = limit.toNat + 1

/-! ### What the rules say of each record, field by field

These say the fields as numbers and bits of the raw value, in the words of 30_encoding.md, and use no decoder of the
model. -/

/-- `v[hi:lo]` as a number (00_scope.md R10). -/
def slice (v hi lo : Nat) : Nat := v / 2 ^ lo % 2 ^ (hi - lo + 1)

/-- The split of `va` (41_translation.md R420). -/
structure SplitIs (va : Word) (a : AddressSplit) : Prop where
  pml4 : a.v4K.pml4.toNat = slice va.toNat 47 39
  pdpt : a.v4K.pdpt.toNat = slice va.toNat 38 30
  pd : a.v4K.pd.toNat = slice va.toNat 29 21
  pt : a.v4K.pt.toNat = slice va.toNat 20 12
  offset4K : a.v4K.offset.toNat = slice va.toNat 11 0
  view2M : a.v2M.pml4 = a.v4K.pml4 ∧ a.v2M.pdpt = a.v4K.pdpt ∧ a.v2M.pd = a.v4K.pd
  offset2M : a.v2M.offset.toNat = slice va.toNat 20 0
  view1G : a.v1G.pml4 = a.v4K.pml4 ∧ a.v1G.pdpt = a.v4K.pdpt
  offset1G : a.v1G.offset.toNat = slice va.toNat 29 0

/-- An entry maps a page, by its level and its bit 7 (41_translation.md R424). -/
def IsLeaf (L : Level) (raw : Word) : Prop := L = .l1 ∨ (L = .l2 ∨ L = .l3) ∧ raw.getLsbD 7 = true

/-- Bit `i` must be 0 in an entry of level `L` (30_encoding.md R318). -/
def MustBeZero (M : Nat) (L : Level) (raw : Word) (i : Nat) : Prop :=
  (M ≤ i ∧ i < 52) ∨ (L = .l4 ∧ i = 7) ∨ (L = .l3 ∧ raw.getLsbD 7 = true ∧ 13 ≤ i ∧ i ≤ 29) ∨
    (L = .l2 ∧ raw.getLsbD 7 = true ∧ 13 ≤ i ∧ i ≤ 20)

/-- The form and the flags of an entry (41_translation.md R424, R425). -/
structure FlagsAre (L : Level) (raw : Word) (e : Entry) : Prop where
  form : e.form = .leaf ↔ IsLeaf L raw
  present : e.present = raw.getLsbD 0
  writable : e.writable = raw.getLsbD 1
  userAccessible : e.userAccessible = raw.getLsbD 2
  writeThrough : e.writeThrough = raw.getLsbD 3
  cacheDisable : e.cacheDisable = raw.getLsbD 4
  accessed : e.accessed = raw.getLsbD 5
  executeDisable : e.executeDisable = raw.getLsbD 63
  pageSize : e.pageSize = if L = .l1 then none else some (raw.getLsbD 7)
  leafDirty : IsLeaf L raw → e.dirty = some (raw.getLsbD 6)
  leafGlobal : IsLeaf L raw → e.global = some (raw.getLsbD 8)
  leafPat : IsLeaf L raw → e.pat = some (raw.getLsbD (if L = .l1 then 7 else 12))
  tableAbsent : ¬ IsLeaf L raw → e.dirty = none ∧ e.global = none ∧ e.pat = none

/-- The frame of an entry (41_translation.md R426): its shift, its number, and the base it gives. -/
structure FrameIs (M : Nat) (L : Level) (raw : Word) (e : Entry) : Prop where
  shift3 : L = .l3 → raw.getLsbD 7 = true → e.frameShift = 30
  shift2 : L = .l2 → raw.getLsbD 7 = true → e.frameShift = 21
  shiftElse : ¬ ((L = .l3 ∨ L = .l2) ∧ raw.getLsbD 7 = true) → e.frameShift = 12
  frameRef : e.frameRef = slice raw.toNat (M - 1) e.frameShift
  frameRefBound : e.frameRef < 2 ^ (M - e.frameShift)
  base : e.base.toNat = e.frameRef * 2 ^ e.frameShift
  aligned : e.base.toNat % 2 ^ e.frameShift = 0
  below : e.base.toNat < 2 ^ M

/-- The reserved bits of an entry, bit by bit, and its `faulty` flag (30_encoding.md R318, 41_translation.md R427). -/
structure ReservedIs (M : Nat) (L : Level) (raw : Word) (e : Entry) : Prop where
  reserved : ∀ i, e.reserved.getLsbD i = true ↔ raw.getLsbD i = true ∧ MustBeZero M L raw i
  faulty : e.faulty = true ↔ ∃ i, raw.getLsbD i = true ∧ MustBeZero M L raw i

/-- All of a decoded entry (41_translation.md R428). -/
structure EntryIs (M : Nat) (L : Level) (t : Word) (i : Nat) (raw : Word) (e : Entry) : Prop where
  level : e.level = L
  tableBase : e.tableBase = t
  index : e.index.toNat = i
  rawValue : e.raw = raw
  flags : FlagsAre L raw e
  frame : FrameIs M L raw e
  reserved : ReservedIs M L raw e

/-- The kind of a segment descriptor by `c`, the S bit above the type nibble (30_encoding.md R323). -/
def kindByC (c : Nat) : Option SegKind :=
  if 0x10 ≤ c ∧ c ≤ 0x17 then some .data
  else if 0x18 ≤ c then some .code
  else if c = 0x00 then some .null
  else if c = 0x0F then some .callgate
  else if c = 0x09 ∨ c = 0x0B ∨ c = 0x0D then some .tss
  else none

/-- The common fields of a segment descriptor (43_segment_descriptors.md R552, 30_encoding.md R320). -/
structure CommonIs (d : Nat) (c : SegCommon) : Prop where
  base : c.base.toNat = slice d 63 56 * 2 ^ 24 + slice d 39 32 * 2 ^ 16 + slice d 31 16
  limit : c.limit.toNat = slice d 51 48 * 2 ^ 16 + slice d 15 0
  type : c.type.toNat = slice d 43 40
  g : c.g = d.testBit 55
  present : c.present = d.testBit 47
  l : c.l = d.testBit 53
  dpl : c.dpl.toNat = slice d 46 45

/-- A decoded segment descriptor of each kind (43_segment_descriptors.md R553 to R557), from the 16 bytes `b` at the
slot's start: the low 8 bytes for an 8-byte kind. -/
def SegIs (k : SegKind) (b : Word128) (x : SegDesc) : Prop :=
  match k, x with
  | .null, .null raw c => raw.toNat = b.toNat % 2 ^ 64 ∧ CommonIs raw.toNat c
  | .data, .data raw c accessed writable executable =>
    raw.toNat = b.toNat % 2 ^ 64 ∧ CommonIs raw.toNat c ∧
      accessed = raw.getLsbD 40 ∧ writable = raw.getLsbD 41 ∧ executable = raw.getLsbD 43
  | .code, .code raw c accessed readable executable =>
    raw.toNat = b.toNat % 2 ^ 64 ∧ CommonIs raw.toNat c ∧
      accessed = raw.getLsbD 40 ∧ readable = raw.getLsbD 41 ∧ executable = raw.getLsbD 43
  | .tss, .tss raw c baseHigh base64 =>
    raw = b ∧ CommonIs (b.toNat % 2 ^ 64) c ∧ baseHigh.toNat = slice b.toNat 95 64 ∧
      base64.toNat = baseHigh.toNat * 2 ^ 32 + c.base.toNat
  | .callgate, .callgate raw c => raw = b ∧ CommonIs (b.toNat % 2 ^ 64) c
  | _, _ => False

/-- A decoded gate (44_gate_descriptors.md R600). -/
structure GateIs (q : Word128) (x : GateDesc) : Prop where
  offset : x.offset.toNat = slice q.toNat 95 64 * 2 ^ 32 + slice q.toNat 63 48 * 2 ^ 16 + slice q.toNat 15 0
  segmentSelector : x.segmentSelector.toNat = slice q.toNat 31 16
  interruptStackTable : x.interruptStackTable.toNat = slice q.toNat 35 32
  type : x.type.toNat = slice q.toNat 43 40
  dpl : x.dpl.toNat = slice q.toNat 46 45
  present : x.present = q.getLsbD 47
  raw : x.raw = q

/-! ### Reads -/

/-- The read that the next step issues, if it issues one: the entry of a WALK frame (41_translation.md R423), or the data
read of a chunk (42_linear_read.md R502). -/
def nextRead (s : State) : Option (Word × ReadSize) :=
  match s.walk, s.range with
  | some f, _ => some (entryAddress f.tableBase (levelIndex f.split f.level), .b8)
  | none, some r =>
    match r.copy with
    | some c => if c.chunkLeft = 0 then none else some (c.pa, dataReadSize c.pa c.chunkLeft)
    | none => none
  | none, none => none

/-- `s` after the reader has answered the read of `n` at `a` with `answer` and has the answers `rest` left. -/
def afterRead (s : State) (a : Word) (n : ReadSize) (answer : Option Word) (rest : List ReaderAnswer) : State :=
  { s with answers := rest, readLog := s.readLog ++ [{ addr := a, size := n, answer := answer }] }

/-! ### Rows as one rule (30_encoding.md R319, R323) -/

/-- The rest of one iteration of the walk's loop for the entry `raw` (41_translation.md R430), in the frame `f`. -/
def visitEntry (s : State) (f : WalkFrame) (raw : Word) : State :=
  let e := f.entry s.m raw
  let es := f.entries ++ [e]
  if !e.present then
    s.endWalk { pageBase := none, pageSize := none, pageOffset := none, entries := es }
  else if e.form = .leaf then
    s.endWalk { pageBase := some (BitVec.ofNat 64 (e.frameRef <<< e.frameShift)), pageSize := some (2 ^ e.frameShift)
                pageOffset := some (levelOffset f.split f.level), entries := es }
  else
    let f' := { f with level := below f.level, tableBase := BitVec.ofNat 64 (e.frameRef <<< 12), entries := es }
    State.sampleAbort { s with walk := some f' }

/-- The rest of one iteration of the GDT loop (43_segment_descriptors.md R570) at the cursor of `t`, whose buffer is
`buf`. -/
def visitSlot (s : State) (t : TableFrame) (buf : List Byte) : State :=
  let b := slotValue buf t.off
  let d := field b 0 64
  match classify d with
  | none => s.raise (.unsupportedDescriptor (field d 40 4) (BitVec.ofNat 16 t.off))
  | some k =>
    if t.bytes - t.off < k.size then s.raise (.truncatedDescriptor (BitVec.ofNat 16 t.off))
    else
      let t' := { t with off := t.off + k.size, segs := t.segs ++ [decodeSeg k b] }
      { s with table := some t' }

/-! ### Tables as procedures (43_segment_descriptors.md R570, 44_gate_descriptors.md R610) -/

/-- The GDT loop over the buffer `buf` of a table of `bytes` bytes, from the cursor `off`, at most `n` more slots. -/
def gdtLoop (bytes : Nat) (buf : List Byte) : Nat → Nat → List SegDesc → Except ErrInfo (List SegDesc)
  | 0, _, ds => .ok ds
  | n + 1, off, ds =>
    if bytes - off < 8 then .ok ds
    else
      let b := slotValue buf off
      let d := field b 0 64
      match classify d with
      | none => .error (.unsupportedDescriptor (field d 40 4) (BitVec.ofNat 16 off))
      | some k =>
        if bytes - off < k.size then .error (.truncatedDescriptor (BitVec.ofNat 16 off))
        else gdtLoop bytes buf n (off + k.size) (ds ++ [decodeSeg k b])

/-- The GDT of a buffer (43_segment_descriptors.md R570). A table has at most `bytes / 8` slots. -/
def gdtProcedure (buf : List Byte) : Except ErrInfo (List SegDesc) := gdtLoop buf.length buf (buf.length / 8) 0 []

/-- The IDT of a buffer (44_gate_descriptors.md R611): the k-th gate is decoded from bytes 16k to 16k + 15. -/
def idtProcedure (buf : List Byte) : List GateDesc :=
  (List.range (buf.length / 16)).map fun k => decodeGate (BitVec.ofNat 128 (le ((buf.drop (16 * k)).take 16)))

/-- The sizes of the data reads of a chunk at `pa` with `left` bytes left, at most `n` of them (42_linear_read.md R502). -/
def readPlan : Nat → Word → Word → List ReadSize
  | 0, _, _ => []
  | n + 1, pa, left =>
    if left = 0 then []
    else
      let k := dataReadSize pa left
      k :: readPlan n (pa + BitVec.ofNat 64 k.bytes) (left - BitVec.ofNat 64 k.bytes)

/-- The sizes of the reads of a chunk of `n` bytes at the physical address `p` (42_linear_read.md R502): single bytes up to
a multiple of 8, then eights, then single bytes. -/
def chunkReads (p n : Nat) : List ReadSize :=
  let h := min n ((8 - p % 8) % 8)
  List.replicate h .b1 ++ List.replicate ((n - h) / 8) .b8 ++ List.replicate ((n - h) % 8) .b1

/-! ### Invariants -/

/-- The entries of a walk in progress, or the ones before its last (41_translation.md R435): the k-th, counting from 0,
has level 4 - k, is present and references a table. -/
def DescendedThrough (es : List Entry) : Prop :=
  ∀ (k : Nat) (e : Entry), es[k]? = some e → e.level.toNat + k = 4 ∧ e.present = true ∧ e.form = .table

/-- A WALK frame between two steps (10_state.md R122, 41_translation.md R426, R430, R435): the split is va's, va is
canonical, the entries are those of the levels above, and a table reached from an entry is page-aligned and below 2^M. -/
structure WalkFrameOk (s : State) (f : WalkFrame) : Prop where
  split : f.split = splitAddress f.va
  accepted : s.acceptsVa f.va = true
  depth : f.entries.length + f.level.toNat = 4
  entries : DescendedThrough f.entries
  atRoot : f.level = .l4 → f.tableBase = f.root
  aligned : f.level ≠ .l4 → f.tableBase.toNat % 4096 = 0 ∧ f.tableBase.toNat < 2 ^ s.m

/-- How many bytes of the current chunk a RANGE frame has copied. -/
def copied (r : RangeFrame) : Nat :=
  match r.copy with
  | none => 0
  | some c => c.chunk.toNat - c.chunkLeft.toNat

/-- A RANGE frame between two steps (10_state.md R123, 42_linear_read.md R500, R501): bytes remain; while its page is
walked, the walk is that of `cur`; while a page is copied, the chunk lies inside the request and below 2^M. -/
structure RangeFrameOk (s : State) (r : RangeFrame) : Prop where
  remaining : r.remaining ≠ 0
  walking : r.copy = none → ∃ f, s.walk = some f ∧ f.root = r.root ∧ f.va = r.cur
  copying : ∀ c, r.copy = some c →
    s.walk = none ∧ c.chunkLeft ≠ 0 ∧ c.chunkLeft.toNat ≤ c.chunk.toNat ∧ c.chunk.toNat ≤ r.remaining.toNat ∧
    c.chunk.toNat - c.chunkLeft.toNat ≤ r.out.length ∧ c.pa.toNat + c.chunkLeft.toNat ≤ 2 ^ s.m

/-- A TABLE frame between two steps (10_state.md R124, 43_segment_descriptors.md R571, 44_gate_descriptors.md R611):
while the table is read, its READ has or will have `limit + 1` bytes and nothing is decoded; once it is read, the buffer
has `limit + 1` bytes, the cursor is in it, and the cursor is the sum of the sizes decoded. -/
structure TableFrameOk (s : State) (t : TableFrame) : Prop where
  reading : t.buf = none → t.off = 0 ∧ t.segs = [] ∧ t.gates = [] ∧
    ∃ r, s.range = some r ∧ r.root = t.root ∧ r.out.length + r.remaining.toNat = t.bytes + copied r
  decoding : ∀ buf, t.buf = some buf →
    s.walk = none ∧ s.range = none ∧ buf.length = t.bytes ∧ t.off ≤ t.bytes ∧
    match t.kind with
    | .gdt => t.off = (t.segs.map SegDesc.size).sum ∧ t.gates = []
    | .idt => t.off = 16 * t.gates.length ∧ t.segs = []

/-- The sequencer's invariant: a legal configuration, a canonical memory image, frames that nest WALK in RANGE in TABLE
(10_state.md R120) and are as their loops leave them between two steps. -/
structure SequencerInv (s : State) : Prop where
  config : ConfigLegal s
  memory : s.mem.wf = true
  nesting : ∀ f t, s.walk = some f → s.table = some t → s.range ≠ none
  walk : ∀ f, s.walk = some f → WalkFrameOk s f
  range : ∀ r, s.range = some r → RangeFrameOk s r
  table : ∀ t, s.table = some t → TableFrameOk s t

/-- A translation result (10_state.md R108, 41_translation.md R432, R433, R435): 1 to 4 entries, the k-th of level 4 - k;
the walk descended through all but the last and stopped at the last, not present (then nothing is mapped) or a present
leaf (then its page is mapped: page-aligned, inside 2^M, the offset inside the page). -/
def TranslationOk (M : Nat) (t : TranslationResult) : Prop :=
  ∃ es e, t.entries = es ++ [e] ∧ es.length < 4 ∧ DescendedThrough es ∧ e.level.toNat + es.length = 4 ∧
    ((e.present = false ∧ t.pageBase = none ∧ t.pageSize = none ∧ t.pageOffset = none) ∨
     (e.present = true ∧ e.form = .leaf ∧
      ∃ base offset, t.pageBase = some base ∧ t.pageSize = some (2 ^ e.frameShift) ∧ t.pageOffset = some offset ∧
        base.toNat % 2 ^ e.frameShift = 0 ∧ base.toNat + 2 ^ e.frameShift ≤ 2 ^ M ∧
        offset.toNat < 2 ^ e.frameShift))

/-- A response (10_state.md R103, R108; 60_exceptions.md R701): status 0 goes with a result record, another status is the
code of the error record beside it, and a translation result is one. -/
def ResponseOk (M : Nat) (r : Response) : Prop :=
  match r.payload with
  | .error e => r.status = errorCode e
  | .translation t => r.status = 0 ∧ TranslationOk M t
  | _ => r.status = 0

/-- The invariant of RSP. -/
def ResponseInv (s : State) : Prop := ∀ r, s.rsp = some r → ResponseOk s.m r

/-- Two states that differ at most in the outcome of the last command and in the record of past reads: what a command may
not depend on (10_state.md R125, R127). -/
def SameButHistory (s s' : State) : Prop := s' = { s with rsp := s'.rsp, readLog := s'.readLog }

end Sys2Proof.Safety
end

