-- ==== Sys2Proof/Certificates/Slice0/Obligations.lean ====
section
/-!
DEFINITION. Certificates/Slice0/Obligations.lean: the statements for the provers. OBLIGATIONS.json gives each its title,
its words and the rules of spec/ it comes from.
-/

open Sys2Proof Sys2Proof.Machine Sys2Proof.Safety

/-! ### Construction, reset, the caller -/

/-- What construction with `X86_64` and a legal `M` leaves (10_state.md R130): the configuration latched, the sequencer
idle with no frames, no command, no response to read. -/
def Obligations.ConstructionLeavesAnIdleBlock : Prop :=
  ∀ m, 32 ≤ m → m ≤ 52 → ∃ t, State.construct 1 m = .next t ∧
    t.cfgArch = 1 ∧ t.cfgVaBits = 48 ∧ t.cfgM.toNat = m ∧
    t.phase = .idle ∧ t.walk = none ∧ t.range = none ∧ t.table = none ∧ t.cmd = none ∧ t.rsp = none ∧
    t.readResponse = .refused .responseNotReady

/-- The model's choice (assumption 1): `State.reset` is the block constructed with M = 40, and (assumptions 2 to 6)
nothing is prepared by the other agents. -/
def Obligations.ResetIsTheBlockAtM40 : Prop :=
  State.construct 1 40 = .next State.reset ∧
    State.reset.mem = [] ∧ State.reset.inaccessible = [] ∧ State.reset.answers = [] ∧ State.reset.commands = [] ∧
    State.reset.aborts = [] ∧ State.reset.readLog = [] ∧ ∀ a, Memory.read State.reset.mem a = 0

/-- When construction fails (70_reset_and_hazards.md R801, R802). That the architecture is looked at first is the model's
choice (assumption 16). -/
def Obligations.ConstructionRejectsOtherConfigurations : Prop :=
  (∀ arch m, arch ≠ 1 → State.construct arch m = .fault .unsupportedArchitecture) ∧
  (∀ m, m < 32 ∨ 52 < m → State.construct 1 m = .fault .invalidConfiguration)

/-- The caller's two registers (10_state.md R102, R103, R130; 70_reset_and_hazards.md R811): CMD is written in an idle
block with none waiting and refused while a command runs, RSP is read once a command has ended; an idle block with no
command and none to come stays as it is (60_exceptions.md R725). The last clause is the model's choice (assumption 5): a
step of an idle block with no command writes the first of the caller's `commands` there. -/
def Obligations.CallerWritesAndReadsTheBlock : Prop :=
  (∀ (s : State) (w : CommandWord), s.phase = .idle → s.cmd = none → s.issueCommand w = .next { s with cmd := some w }) ∧
  (∀ (s : State) (w : CommandWord), s.phase ≠ .idle → s.issueCommand w = .refused .commandWhileBusy) ∧
  (∀ (s : State) (r : Response), s.rsp = some r → s.readResponse = .next r) ∧
  (∀ s : State, s.rsp = none → s.readResponse = .refused .responseNotReady) ∧
  (∀ s : State, s.phase = .idle → s.cmd = none → s.commands = [] → step s = .next s) ∧
  (∀ (s : State) (w : CommandWord) (rest : List CommandWord), s.phase = .idle → s.cmd = none → s.commands = w :: rest →
    step s = .next { s with cmd := some w, commands := rest })

/-! ### Decoding -/

/-- Words written out from 30_encoding.md R301 and from the encodings of 95_test_vectors.md decode to what they stand
for. -/
def Obligations.WrittenWordsDecode : Prop :=
  decode .command [0x02, 0x08, 0x10, 0, 0, 0, 0, 0, 0] = .ok (.split 0x1008) ∧
  decode .command [0x04, 0x00, 0x10, 0, 0, 0, 0, 0, 0, 0x67, 0x45, 0x60, 0x80, 0x80, 0, 0, 0] =
    .ok (.resolve 0x1000 0x0000008080604567) ∧
  decode .command [0x09, 0x00, 0x10, 0, 0, 0, 0, 0, 0, 0x00, 0x60, 0, 0, 0, 0, 0, 0, 0x1F, 0x00] =
    .ok (.idt 0x1000 0x6000 0x1F) ∧
  decode .command [0x0A] = .ok (.illegalCommand 0x0A) ∧
  decode (.entry .l3) [0x83, 0, 0, 0x80, 0, 0, 0, 0] = .ok (.pteL3P1PS1 0x80000083) ∧
  decode .segment [0x67, 0x00, 0x80, 0x67, 0x45, 0x89, 0x00, 0x23] = .ok (.segdescTssT9 0x2300894567800067)

/-- Decode and encode agree: every well-formed instruction, with every operand, is what its own bytes decode to, whatever
bytes follow them (30_encoding.md R301, R319, R323, R325). -/
def Obligations.DecodeEncodeRoundTrip : Prop :=
  ∀ (i : Instr) (rest : List Byte), i.wf = true → decode i.kind (encode i ++ rest) = .ok i

/-- The other direction: whatever decodes is well formed, of the kind it was read as, and its bytes are the ones read: no
bit of an instruction's bytes is dropped. -/
def Obligations.DecodedBytesAreTheEncoding : Prop :=
  ∀ (k : FetchKind) (bs : List Byte) (i : Instr), decode k bs = .ok i →
    i.wf = true ∧ i.kind = k ∧ encode i = bs.take (encode i).length

/-- Opcode 0x00 and opcodes 0x0A to 0xFF select no command, the others do (30_encoding.md R302, R300): a command word
decodes to the illegal command exactly for those. -/
def Obligations.IllegalOpcodesSelectNoCommand : Prop :=
  ∀ (w : CommandWord), (∃ op, decodeCommand w = .illegalCommand op) ↔ w.toNat % 256 = 0 ∨ 0x0A ≤ w.toNat % 256

/-- The five pseudo-instructions (30_encoding.md R305), each as its expansion. -/
def Obligations.PseudoInstructionsExpand : Prop :=
  ∀ (root va lo hi : Nat),
    assemble (.readq root va) = assemble (.read root va 8) ∧
    assemble (.readb root va) = assemble (.read root va 1) ∧
    (lo < 2 ^ 64 → hi < 2 ^ 64 →
      assemble (.segCreateQ lo) = assemble (.segCreate ((bytesLE lo 8).map BitVec.toNat)) ∧
      assemble (.segCreateO lo hi) = assemble (.segCreate ((bytesLE lo 8 ++ bytesLE hi 8).map BitVec.toNat)) ∧
      assemble (.gateDecodeO lo hi) = assemble (.gateDecode ((bytesLE lo 8 ++ bytesLE hi 8).map BitVec.toNat)))

/-! ### One step runs the decoded instruction -/

/-- The command of an idle block's CMD is started (10_state.md R102): where the bytes of CMD decode to an instruction, the
step is that instruction's meaning. -/
def Obligations.StepRunsTheDecodedCommand : Prop :=
  ∀ (s : State) (w : CommandWord) (i : Instr), s.phase = .idle → s.cmd = some w →
    decode .command (bytesLE w.toNat 25) = .ok i → step s = exec i s

/-- The walker's step (41_translation.md R431): it reads the entry of its level with one 8-byte read, and where the bytes of
the answer decode to an entry row at that level, the step is that row's meaning, from the state after the read. -/
def Obligations.StepRunsTheDecodedEntry : Prop :=
  ∀ (s : State) (f : WalkFrame) (raw : Word) (rest : List ReaderAnswer) (i : Instr), s.walk = some f →
    readerAnswer s (entryAddress f.tableBase (levelIndex f.split f.level)) .b8 = (.value raw, rest) →
    decode (.entry f.level) (bytesLE raw.toNat 8) = .ok i →
    step s = exec i (afterRead s (entryAddress f.tableBase (levelIndex f.split f.level)) .b8 (some raw) rest)

/-- A table command's step at a slot (43_segment_descriptors.md R570, 44_gate_descriptors.md R610): where the bytes at the
cursor decode to a slot row, the step is that row's meaning. -/
def Obligations.StepRunsTheDecodedSlot : Prop :=
  ∀ (s : State) (t : TableFrame) (buf : List Byte) (i : Instr), s.walk = none → s.range = none → s.table = some t →
    t.buf = some buf → buf.length = t.bytes →
    (t.kind = .gdt → t.off + 8 ≤ t.bytes → decode .segment (buf.drop t.off) = .ok i → step s = exec i s) ∧
    (t.kind = .idt → t.off + 16 ≤ t.bytes → decode .gate (buf.drop t.off) = .ok i → step s = exec i s)

/-! ### The bit-field extractor -/

/-- BITS (40_bitfield.md R400, R401, R402): the result's bit `i` is bit `start + i` of the value for `i` below `nbits`, and 0
above; as a number it is `(value >> start) & (2^nbits - 1)`, inside the bounds of R402. Nothing else changes but that the
command ends. -/
def Obligations.BitsExtractsTheField : Prop :=
  ∀ (value : Word128) (start nbits : BitVec 8) (s : State), s.phase = .idle →
    ∃ v : Word128, exec (.bits value start nbits) s = .next (answered s (okay (.bits v))) ∧
      v.toNat = (value.toNat >>> start.toNat) &&& (2 ^ nbits.toNat - 1) ∧
      v.toNat < 2 ^ nbits.toNat ∧ v.toNat ≤ value.toNat >>> start.toNat ∧
      ∀ i, v.getLsbD i = (decide (i < nbits.toNat) && value.getLsbD (start.toNat + i))

/-! ### SPLIT, PTE.DECODE -/

/-- SPLIT (41_translation.md R420, R421): the three views, for every `va`, canonical or not. -/
def Obligations.SplitAnswersTheThreeViews : Prop :=
  ∀ (va : Word) (s : State), s.phase = .idle →
    ∃ a, exec (.split va) s = .next (answered s (okay (.split a))) ∧ SplitIs va a

/-- The form and flags of an entry (41_translation.md R424, R425), at every level and for every value. -/
def Obligations.EntryFlagsFollowTheLayout : Prop :=
  ∀ (M : Nat) (L : Level) (t : Word) (i : BitVec 9) (raw : Word), FlagsAre L raw (decodeEntry M L t i raw)

/-- The frame of an entry (41_translation.md R426): its shift, its field `raw[M-1 : shift]`, and the base it gives, a multiple
of 2^shift below 2^M. -/
def Obligations.EntryFrameIsAlignedBelowM : Prop :=
  ∀ (M : Nat) (L : Level) (t : Word) (i : BitVec 9) (raw : Word), 32 ≤ M → M ≤ 52 →
    FrameIs M L raw (decodeEntry M L t i raw)

/-- The reserved bits and the faulty flag (30_encoding.md R318, 41_translation.md R427), bit by bit, whatever the present
bit is. -/
def Obligations.EntryReservedBitsFollowTheMasks : Prop :=
  ∀ (M : Nat) (L : Level) (t : Word) (i : BitVec 9) (raw : Word), 32 ≤ M → M ≤ 52 →
    ReservedIs M L raw (decodeEntry M L t i raw)

/-- PTE.DECODE (41_translation.md R428): of legal operands the decoded entry, of an illegal level or index (30_encoding.md
R303) `IllegalOperand(0x03)`. -/
def Obligations.PteDecodeAnswersTheEntry : Prop :=
  ∀ (L : Level) (level : BitVec 8) (tableBase : Word) (index : BitVec 16) (raw : Word) (s : State),
    s.phase = .idle → ConfigLegal s →
    (level.toNat = L.toNat → index.toNat < 512 →
      ∃ e, exec (.pteDecode level tableBase index raw) s = .next (answered s (okay (.entry e))) ∧
        EntryIs s.m L tableBase index.toNat raw e) ∧
    (level.toNat = 0 ∨ 4 < level.toNat ∨ 512 ≤ index.toNat →
      exec (.pteDecode level tableBase index raw) s = .next (answered s (failed 9 (.illegalOperand 0x03))))

/-- The entry round trip (41_translation.md R439): decoding an encoded entry gives the same field values, with no reserved
bit and no fault, for every level and every form legal there. -/
def Obligations.EntryRoundTrip : Prop :=
  ∀ (M : Nat) (L : Level) (f : Form) (t : Word) (i : BitVec 9) (x : EntryFields), 32 ≤ M → M ≤ 52 →
    (L = .l4 → f = .table) → (L = .l1 → f = .leaf) → x.frameRef < 2 ^ (M - frameShift L f) →
    let e := decodeEntry M L t i (encodeEntry L f x)
    e.form = f ∧ e.frameRef = x.frameRef ∧ e.frameShift = frameShift L f ∧ e.reserved = 0 ∧ e.faulty = false ∧
    e.present = x.present ∧ e.writable = x.writable ∧ e.userAccessible = x.userAccessible ∧
    e.writeThrough = x.writeThrough ∧ e.cacheDisable = x.cacheDisable ∧ e.accessed = x.accessed ∧
    e.executeDisable = x.executeDisable ∧
    e.pageSize = (if L = .l1 then none else some (decide (f = .leaf))) ∧
    (f = .leaf → e.dirty = some x.dirty ∧ e.global = some x.global ∧ e.pat = some x.pat) ∧
    (f = .table → e.dirty = none ∧ e.global = none ∧ e.pat = none)

/-! ### RESOLVE and the entry rows -/

/-- RESOLVE checks the width of `va` before any read (41_translation.md R429): canonical at 48 bits, bits 63:47 all 0 or all
1, or the error; accepted, the WALK frame stands at level 4 with `root` verbatim (R430, 10_state.md R122). -/
def Obligations.ResolveChecksTheAddressWidth : Prop :=
  ∀ (root va : Word) (s : State), s.phase = .idle → s.cfgVaBits = 48 →
    (va.toNat / 2 ^ 47 = 0 ∨ va.toNat / 2 ^ 47 = 0x1FFFF →
      exec (.resolve root va) s = .next
        { s with walk := some
                  { root := root, va := va, split := splitAddress va, level := .l4, tableBase := root, entries := [] } }) ∧
    (¬ (va.toNat / 2 ^ 47 = 0 ∨ va.toNat / 2 ^ 47 = 0x1FFFF) →
      exec (.resolve root va) s = .next (answered s (failed 1 (.addressWidthViolation va))))

/-- The not-present rows end a RESOLVE unmapped, with every entry visited (41_translation.md R433): PTE.L4.P0,
PTE.L3.P0.PS0, PTE.L3.P0.PS1, PTE.L2.P0.PS0, PTE.L2.P0.PS1, PTE.L1.P0. -/
def Obligations.NotPresentRowsEndResolveUnmapped : Prop :=
  ∀ (s : State) (f : WalkFrame) (raw : Word), s.walk = some f → s.range = none →
    let t := answered s (okay (.translation
      { pageBase := none, pageSize := none, pageOffset := none, entries := f.entries ++ [f.entry s.m raw] }))
    (f.level = .l4 → exec (.pteL4P0 raw) s = .next t) ∧
    (f.level = .l3 → exec (.pteL3P0PS0 raw) s = .next t ∧ exec (.pteL3P0PS1 raw) s = .next t) ∧
    (f.level = .l2 → exec (.pteL2P0PS0 raw) s = .next t ∧ exec (.pteL2P0PS1 raw) s = .next t) ∧
    (f.level = .l1 → exec (.pteL1P0 raw) s = .next t)

/-- The same rows inside a READ are its error (42_linear_read.md R504): `UnmappedRange` of the cursor, no bytes. -/
def Obligations.NotPresentRowsFailARead : Prop :=
  ∀ (s : State) (f : WalkFrame) (r : RangeFrame) (raw : Word), s.walk = some f → s.range = some r →
    let t := answered s (failed 4 (.unmappedRange r.cur))
    (f.level = .l4 → exec (.pteL4P0 raw) s = .next t) ∧
    (f.level = .l3 → exec (.pteL3P0PS0 raw) s = .next t ∧ exec (.pteL3P0PS1 raw) s = .next t) ∧
    (f.level = .l2 → exec (.pteL2P0PS0 raw) s = .next t ∧ exec (.pteL2P0PS1 raw) s = .next t) ∧
    (f.level = .l1 → exec (.pteL1P0 raw) s = .next t)

/-- The present leaf rows end a RESOLVE mapped (41_translation.md R432): page base from the frame at the page's width, page
size 1 GiB, 2 MiB or 4 KiB, and the view's offset. -/
def Obligations.LeafRowsEndResolveMapped : Prop :=
  ∀ (s : State) (f : WalkFrame) (raw : Word), s.walk = some f → s.range = none → ConfigLegal s →
    let result := fun (base size : Nat) (offset : BitVec 30) => answered s (okay (.translation
      { pageBase := some (BitVec.ofNat 64 base), pageSize := some size, pageOffset := some offset
        entries := f.entries ++ [f.entry s.m raw] }))
    (f.level = .l3 → (Instr.pteL3P1PS1 raw).wf = true → exec (.pteL3P1PS1 raw) s =
      .next (result (slice raw.toNat (s.m - 1) 30 * 2 ^ 30) 0x40000000 f.split.v1G.offset)) ∧
    (f.level = .l2 → (Instr.pteL2P1PS1 raw).wf = true → exec (.pteL2P1PS1 raw) s =
      .next (result (slice raw.toNat (s.m - 1) 21 * 2 ^ 21) 0x200000 (f.split.v2M.offset.setWidth 30))) ∧
    (f.level = .l1 → (Instr.pteL1P1 raw).wf = true → exec (.pteL1P1 raw) s =
      .next (result (slice raw.toNat (s.m - 1) 12 * 2 ^ 12) 0x1000 (f.split.v4K.offset.setWidth 30)))

/-- The present leaf rows inside a READ start the page's chunk (42_linear_read.md R500, R501): at base plus offset, the
smaller of the bytes left in the page and in the request; the next step will read it, so a set abort input ends the
command here (60_exceptions.md R712). That each sampling point uses up one entry of `aborts` is the model's choice
(assumption 6); the field `chunk` is the model's reading of R500 (assumption 13). -/
def Obligations.LeafRowsStartAChunk : Prop :=
  ∀ (s : State) (f : WalkFrame) (r : RangeFrame) (raw : Word), s.walk = some f → s.range = some r →
    let e := f.entry s.m raw
    let chunk := fun (offset : BitVec 30) => BitVec.ofNat 64 (min (2 ^ e.frameShift - offset.toNat) r.remaining.toNat)
    let copying := fun (offset : BitVec 30) (rest : List Bool) =>
      let c : CopyState :=
        { pa := e.base + offset.setWidth 64, chunkLeft := chunk offset, chunk := chunk offset }
      { s with walk := none, range := some { r with copy := some c }, aborts := rest }
    let goesOn := fun (i : Instr) (offset : BitVec 30) =>
      (s.aborts = [] → exec i s = .next (copying offset [])) ∧
      (∀ rest, s.aborts = false :: rest → exec i s = .next (copying offset rest)) ∧
      (∀ rest, s.aborts = true :: rest → exec i s = .next (answered { s with aborts := rest } (failed 7 .aborted)))
    (f.level = .l3 → goesOn (.pteL3P1PS1 raw) f.split.v1G.offset) ∧
    (f.level = .l2 → goesOn (.pteL2P1PS1 raw) (f.split.v2M.offset.setWidth 30)) ∧
    (f.level = .l1 → goesOn (.pteL1P1 raw) (f.split.v4K.offset.setWidth 30))

/-- The table rows go down one level (41_translation.md R430, R438): the next table at the frame `raw[M-1:12] << 12`, also
from a PML4 entry with bit 7 set; a set abort input ends the command there (60_exceptions.md R712). That each sampling
point uses up one entry of `aborts` is the model's choice (assumption 6). -/
def Obligations.TableRowsDescend : Prop :=
  ∀ (s : State) (f : WalkFrame) (raw : Word), s.walk = some f → ConfigLegal s →
    let lower := fun (L : Level) (rest : List Bool) =>
      let f' : WalkFrame := { f with level := L, tableBase := BitVec.ofNat 64 (slice raw.toNat (s.m - 1) 12 * 2 ^ 12)
                                     entries := f.entries ++ [f.entry s.m raw] }
      { s with walk := some f', aborts := rest }
    let goesDown := fun (i : Instr) (L : Level) => i.wf = true →
      (s.aborts = [] → exec i s = .next (lower L [])) ∧
      (∀ rest, s.aborts = false :: rest → exec i s = .next (lower L rest)) ∧
      (∀ rest, s.aborts = true :: rest → exec i s = .next (answered { s with aborts := rest } (failed 7 .aborted)))
    (f.level = .l4 → goesDown (.pteL4P1PS0 raw) .l3 ∧ goesDown (.pteL4P1PS1 raw) .l3) ∧
    (f.level = .l3 → goesDown (.pteL3P1PS0 raw) .l2) ∧
    (f.level = .l2 → goesDown (.pteL2P1PS0 raw) .l1)

/-- The thirteen rows together are the walk's loop (30_encoding.md R319, 41_translation.md R430): whatever the entry read, the
row it decodes to does what the loop's body does with it. -/
def Obligations.EntryRowsCarryOutTheWalkLoop : Prop :=
  ∀ (s : State) (f : WalkFrame) (raw : Word), s.walk = some f →
    exec (entryRow f.level raw) s = .next (visitEntry s f raw)

/-- A whole RESOLVE (41_translation.md R430, R431, R434; 70_reset_and_hazards.md R821): undisturbed, it ends after at most
five steps and four reads of 8 bytes with the response of the procedure of R430 on the image, and changes nothing else.
The reads are the rules'; that they take one step each and the start of the command one more is the model's choice
(assumption 9). -/
def Obligations.ResolveCarriesOutItsProcedure : Prop :=
  ∀ (s : State) (root va : Word), Holds s (.resolve root va) → Undisturbed s →
    ∃ n events, n ≤ 5 ∧ events.length ≤ 4 ∧ (∀ e ∈ events, e.size = ReadSize.b8) ∧
      RunsTo n s (answered { s with readLog := s.readLog ++ events }
        (responseOf .translation (resolveProcedure s root va)))

/-! ### READ -/

/-- The start of READ (42_linear_read.md R500): nothing to read ends it at once with no bytes, whatever the address; else the
first page's address is checked and its walk begins. -/
def Obligations.ReadStartsWithTheFirstPage : Prop :=
  ∀ (root va length : Word) (s : State), s.phase = .idle →
    (length = 0 → exec (.read root va length) s = .next (answered s (okay (.bytes [])))) ∧
    (length ≠ 0 → s.acceptsVa va = false →
      exec (.read root va length) s = .next (answered s (failed 1 (.addressWidthViolation va)))) ∧
    (length ≠ 0 → s.acceptsVa va = true →
      exec (.read root va length) s = .next
        { s with range := some { root := root, cur := va, remaining := length, out := [], copy := none }
                 walk := some (firstWalkFrame root va) })

/-- A data read inside a chunk (42_linear_read.md R500, R502): one read at the next physical address, its bytes added in order,
8 of them where the address is a multiple of 8 and 8 remain, else 1. While bytes of the chunk are left the copy goes on
behind them. The last read of the chunk moves the cursor on by the chunk, and then: with no byte of the request left the
READ ends, or hands its bytes to the table it was for (43_segment_descriptors.md R570, 44_gate_descriptors.md R610); else
the next page's address is checked and its walk begins. With no abort scripted (`AbortActsExactlyBetweenReads` says what one
does); that the read's step includes what follows up to the next read is the model's choice (assumption 9). -/
def Obligations.DataReadAddsItsBytes : Prop :=
  ∀ (s : State) (r : RangeFrame) (c : CopyState) (v : Word) (rest : List ReaderAnswer),
    s.walk = none → s.range = some r → r.copy = some c → c.chunkLeft ≠ 0 →
    let n : ReadSize := if c.pa.toNat % 8 = 0 ∧ 8 ≤ c.chunkLeft.toNat then .b8 else .b1
    readerAnswer s c.pa n = (.value v, rest) → s.aborts = [] →
    let s' := afterRead s c.pa n (some v) rest
    let out := r.out ++ bytesLE v.toNat n.bytes
    let cur := r.cur + c.chunk
    let remaining := r.remaining - c.chunk
    (n.bytes < c.chunkLeft.toNat →
      let c' : CopyState :=
        { c with pa := c.pa + BitVec.ofNat 64 n.bytes, chunkLeft := c.chunkLeft - BitVec.ofNat 64 n.bytes }
      step s = .next { s' with range := some { r with out := out, copy := some c' } }) ∧
    (c.chunkLeft.toNat = n.bytes → remaining = 0 → s.table = none → step s = .next (answered s' (okay (.bytes out)))) ∧
    (c.chunkLeft.toNat = n.bytes → remaining = 0 → ∀ t, s.table = some t →
      step s = .next { s' with range := none, table := some { t with buf := some out } }) ∧
    (c.chunkLeft.toNat = n.bytes → remaining ≠ 0 → s.acceptsVa cur = false →
      step s = .next (answered s' (failed 1 (.addressWidthViolation cur)))) ∧
    (c.chunkLeft.toNat = n.bytes → remaining ≠ 0 → s.acceptsVa cur = true →
      step s = .next
        { s' with range := some { r with cur := cur, remaining := remaining, out := out, copy := none }
                  walk := some (firstWalkFrame r.root cur) })

/-- The reads of a chunk (42_linear_read.md R502): at physical address p with length n, `h = min(n, (8 - p mod 8) mod 8)`
1-byte reads, then `floor((n - h) / 8)` 8-byte reads, then `(n - h) mod 8` 1-byte reads. First of the sizes that
`dataReadSize` gives one after another, then of the machine: from a state that copies a chunk, with a reader that answers
and no abort, the next steps, one for each read (R505), add exactly those reads to the log, in address order and without a
gap, whether the READ is a command or a table's. -/
def Obligations.ChunkIsReadHeadBodyTail : Prop :=
  (∀ (p n : Word), p.toNat + n.toNat ≤ 2 ^ 64 → readPlan n.toNat p n = chunkReads p.toNat n.toNat) ∧
  (∀ (s : State) (r : RangeFrame) (c : CopyState), s.walk = none → s.range = some r → r.copy = some c →
    c.pa.toNat + c.chunkLeft.toNat ≤ 2 ^ 64 → s.inaccessible = [] → (∀ x ∈ s.answers, ∃ v, x = .value v) →
    true ∉ s.aborts →
    ∃ t events, RunsTo events.length s t ∧ t.readLog = s.readLog ++ events ∧
      events.map ReadEvent.size = chunkReads c.pa.toNat c.chunkLeft.toNat ∧
      ∀ i e, events[i]? = some e →
        e.addr.toNat = c.pa.toNat + ((events.take i).map fun x => x.size.bytes).sum)

/-- A READ all of whose bytes translate (42_linear_read.md R500, R503, R506): it ends with exactly `length` bytes, in virtual
order, each the image's byte at the physical address its own virtual address translates to, wherever the pages lie; but
for RSP, CMD and the read log nothing has changed. -/
def Obligations.ReadReturnsTheTranslatedBytes : Prop :=
  ∀ (s : State) (root va length : Word), ConfigLegal s → Holds s (.read root va length) → Undisturbed s →
    s.inaccessible = [] → AllTranslate s root va length.toNat →
    ∃ n events bs, TranslatedBytes s root va length.toNat bs ∧
      RunsTo n s (answered { s with readLog := s.readLog ++ events } (okay (.bytes bs)))

/-- A READ, a GDT or an IDT with a byte that does not translate (42_linear_read.md R500, R503, R504; 60_exceptions.md R711): it
ends with the error of the first such byte, `AddressWidthViolation` or `UnmappedRange` of that byte's own address, and
returns no bytes and no list; but for RSP, CMD and the read log nothing has changed. -/
def Obligations.ReadFailsAtItsFirstBadByte : Prop :=
  ∀ (s : State) (cmd : Instr) (root va : Word) (length i : Nat) (e : ErrInfo), ConfigLegal s → Holds s cmd →
    ReadsRange cmd root va length → Undisturbed s → s.inaccessible = [] → i < length → AllTranslate s root va i →
    physicalAddress s root (va + BitVec.ofNat 64 i) = .error e →
    (e = .addressWidthViolation (va + BitVec.ofNat 64 i) ∨ e = .unmappedRange (va + BitVec.ofNat 64 i)) ∧
    ∃ n events, RunsTo n s (answered { s with readLog := s.readLog ++ events } (failed (errorCode e) e))

/-! ### Segment and gate descriptors, GDT and IDT -/

/-- The kind and size of a descriptor by its S bit and type nibble (43_segment_descriptors.md R550, 30_encoding.md R323), the
call gate before the TSS mask. -/
def Obligations.DescriptorKindFollowsTheDispatchTable : Prop :=
  ∀ d : Word, classify d = kindByC (slice d.toNat 44 40) ∧
    ∀ k, classify d = some k → k.size = if k = .tss ∨ k = .callgate then 16 else 8

/-- The fields of a decoded descriptor of each kind (43_segment_descriptors.md R552 to R557), and the size it reports
(R559). -/
def Obligations.DescriptorFieldsFollowTheLayout : Prop :=
  ∀ (k : SegKind) (b : Word128), SegIs k b (decodeSeg k b) ∧
    (decodeSeg k b).size = if k = .tss ∨ k = .callgate then 16 else 8

/-- SEG.CREATE (43_segment_descriptors.md R560), its checks in their order and its result. -/
def Obligations.SegCreateChecksInOrder : Prop :=
  ∀ (n : BitVec 8) (b : Word128) (s : State), s.phase = .idle →
    let c := slice b.toNat 44 40
    (16 < n.toNat → exec (.segCreate n b) s = .next (answered s (failed 9 (.illegalOperand 0x06)))) ∧
    (n.toNat < 8 → exec (.segCreate n b) s = .next (answered s (failed 5 (.insufficientBytes n 8)))) ∧
    (8 ≤ n.toNat → n.toNat ≤ 16 → kindByC c = none →
      exec (.segCreate n b) s = .next (answered s (failed 3 (.unsupportedDescriptor (BitVec.ofNat 4 c) 0)))) ∧
    (∀ k, 8 ≤ n.toNat → n.toNat ≤ 16 → kindByC c = some k → n.toNat < k.size →
      exec (.segCreate n b) s = .next (answered s (failed 5 (.insufficientBytes n 16)))) ∧
    (∀ k, n.toNat ≤ 16 → kindByC c = some k → k.size ≤ n.toNat →
      ∃ x, exec (.segCreate n b) s = .next (answered s (okay (.segment x))) ∧ SegIs k b x)

/-- GATE.DECODE (44_gate_descriptors.md R600, R601): every 16 bytes are a gate, no field is checked. -/
def Obligations.GateDecodeAnswersTheGate : Prop :=
  ∀ (q : Word128) (s : State), s.phase = .idle →
    ∃ g, exec (.gateDecode q) s = .next (answered s (okay (.gate g))) ∧ GateIs q g

/-- GDT and IDT read the whole table first (43_segment_descriptors.md R572, 44_gate_descriptors.md R610): one READ of
`limit + 1` bytes at `base`, inside the TABLE frame, or the error of its first page's address. -/
def Obligations.TableCommandsReadTheTableFirst : Prop :=
  ∀ (root base : Word) (limit : BitVec 16) (s : State), s.phase = .idle →
    let started := fun (kind : TableKind) =>
      let t : TableFrame :=
        { kind := kind, root := root, base := base, limit := limit, buf := none, off := 0, segs := [], gates := [] }
      let r : RangeFrame :=
        { root := root, cur := base, remaining := BitVec.ofNat 64 (limit.toNat + 1), out := [], copy := none }
      { s with table := some t, range := some r, walk := some (firstWalkFrame root base) }
    (s.acceptsVa base = true → exec (.gdt root base limit) s = .next (started .gdt) ∧
      exec (.idt root base limit) s = .next (started .idt)) ∧
    (s.acceptsVa base = false →
      exec (.gdt root base limit) s = .next (answered s (failed 1 (.addressWidthViolation base))) ∧
      exec (.idt root base limit) s = .next (answered s (failed 1 (.addressWidthViolation base))))

/-- The 8-byte slots (43_segment_descriptors.md R570, R571): the descriptor is added and the cursor moves by 8:
SEGDESC.DATA, SEGDESC.CODE, SEGDESC.NULL. -/
def Obligations.ShortSlotsMoveTheCursorBy8 : Prop :=
  ∀ (s : State) (t : TableFrame) (buf : List Byte) (d : Word), s.walk = none → s.range = none → s.table = some t →
    t.buf = some buf → t.kind = .gdt → t.off + 8 ≤ t.bytes →
    let adds := fun (i : Instr) (k : SegKind) =>
      ∃ x, exec i s = .next { s with table := some { t with off := t.off + 8, segs := t.segs ++ [x] } } ∧
        SegIs k (BitVec.ofNat 128 d.toNat) x
    adds (.segdescData d) .data ∧ adds (.segdescCode d) .code ∧ adds (.segdescNull d) .null

/-- The 16-byte slots (43_segment_descriptors.md R556, R557, R570): the upper 8 bytes come from the buffer, the descriptor is
added and the cursor moves by 16, not 8; with fewer than 16 bytes left the table is truncated there: SEGDESC.CALLGATE and
the three TSS rows. -/
def Obligations.LongSlotsMoveTheCursorBy16 : Prop :=
  ∀ (s : State) (t : TableFrame) (buf : List Byte) (d : Word), s.walk = none → s.range = none → s.table = some t →
    t.buf = some buf → t.kind = .gdt → t.off + 8 ≤ t.bytes →
    let adds := fun (i : Instr) (k : SegKind) =>
      (t.off + 16 ≤ t.bytes →
        ∃ x, exec i s = .next { s with table := some { t with off := t.off + 16, segs := t.segs ++ [x] } } ∧
          SegIs k (BitVec.ofNat 128 (d.toNat + 2 ^ 64 * le ((buf.drop (t.off + 8)).take 8))) x) ∧
      (t.bytes < t.off + 16 → exec i s = .next (answered s (failed 6 (.truncatedDescriptor (BitVec.ofNat 16 t.off)))))
    adds (.segdescCallgate d) .callgate ∧ adds (.segdescTssT9 d) .tss ∧ adds (.segdescTssTB d) .tss ∧
      adds (.segdescTssTD d) .tss

/-- The unsupported slots (30_encoding.md R324, 43_segment_descriptors.md R570): the command ends with the type nibble and the
slot's offset, and no list. -/
def Obligations.UnsupportedSlotsEndTheCommand : Prop :=
  ∀ (s : State) (t : TableFrame) (buf : List Byte) (d : Word), s.walk = none → s.range = none → s.table = some t →
    t.buf = some buf → t.kind = .gdt → t.off + 8 ≤ t.bytes →
    ∀ i ∈ [Instr.segdescUnsupportedT1 d, .segdescUnsupportedT2 d, .segdescUnsupportedT3 d, .segdescUnsupportedT4 d,
        .segdescUnsupportedT5 d, .segdescUnsupportedT6 d, .segdescUnsupportedT7 d, .segdescUnsupportedT8 d,
        .segdescUnsupportedTA d, .segdescUnsupportedTC d, .segdescUnsupportedTE d],
      exec i s = .next (answered s (failed 3
        (.unsupportedDescriptor (BitVec.ofNat 4 (slice d.toNat 43 40)) (BitVec.ofNat 16 t.off))))

/-- The gate slot (44_gate_descriptors.md R610, R611): the gate is added and the cursor moves by 16. -/
def Obligations.GateSlotsMoveTheCursorBy16 : Prop :=
  ∀ (s : State) (t : TableFrame) (buf : List Byte) (q : Word128), s.walk = none → s.range = none → s.table = some t →
    t.buf = some buf → t.kind = .idt → t.off + 16 ≤ t.bytes →
    ∃ g, exec (.gatedesc q) s = .next { s with table := some { t with off := t.off + 16, gates := t.gates ++ [g] } } ∧
      GateIs q g

/-- The decoding of a whole GDT (43_segment_descriptors.md R570, R571, R572): from a table just read, the steps end the command
with the list, or the error, of the loop over its bytes, each slot advanced by its own size. And the whole command, all of
its bytes translating: it ends with the outcome of that loop over the `limit + 1` bytes that READ gives for `base`, the
image's bytes at the physical addresses they translate to. -/
def Obligations.GdtDecodesItsWholeTable : Prop :=
  (∀ (s : State) (t : TableFrame) (buf : List Byte), s.walk = none → s.range = none → s.table = some t →
    t.buf = some buf → t.kind = .gdt → buf.length = t.bytes → t.off = 0 → t.segs = [] →
    ∃ n, RunsTo n s (answered s (responseOf .segments (gdtProcedure buf)))) ∧
  (∀ (s : State) (root base : Word) (limit : BitVec 16), ConfigLegal s → Holds s (.gdt root base limit) → Undisturbed s →
    s.inaccessible = [] → AllTranslate s root base (limit.toNat + 1) →
    ∃ n events buf, TranslatedBytes s root base (limit.toNat + 1) buf ∧
      RunsTo n s (answered { s with readLog := s.readLog ++ events } (responseOf .segments (gdtProcedure buf))))

/-- The decoding of a whole IDT (44_gate_descriptors.md R610, R611): from a table just read, the k-th gate from bytes 16k to
16k + 15, floor((limit + 1) / 16) gates, a shorter tail ignored. And the whole command, all of its bytes translating: it
ends with those gates of the `limit + 1` bytes that READ gives for `base`, the image's bytes at the physical addresses they
translate to. -/
def Obligations.IdtDecodesEverySixteenBytes : Prop :=
  (∀ (s : State) (t : TableFrame) (buf : List Byte), s.walk = none → s.range = none → s.table = some t →
    t.buf = some buf → t.kind = .idt → buf.length = t.bytes → t.off = 0 → t.gates = [] →
    (idtProcedure buf).length = (t.limit.toNat + 1) / 16 ∧
    ∃ n, RunsTo n s (answered s (okay (.gates (idtProcedure buf))))) ∧
  (∀ (s : State) (root base : Word) (limit : BitVec 16), ConfigLegal s → Holds s (.idt root base limit) → Undisturbed s →
    s.inaccessible = [] → AllTranslate s root base (limit.toNat + 1) →
    ∃ n events buf, TranslatedBytes s root base (limit.toNat + 1) buf ∧
      RunsTo n s (answered { s with readLog := s.readLog ++ events } (okay (.gates (idtProcedure buf)))))

/-! ### Errors, aborts, reads -/

/-- An illegal command (30_encoding.md R302): opcodes 0x00 and 0x0A to 0xFF, whatever stands behind them in CMD, end at once
with the opcode as the information, and issue no read. -/
def Obligations.IllegalCommandEndsAtOnce : Prop :=
  (∀ (opcode : BitVec 8) (s : State), s.phase = .idle →
    exec (.illegalCommand opcode) s = .next (answered s (failed 8 (.illegalCommand opcode)))) ∧
  (∀ (w : CommandWord) (s : State), s.phase = .idle → s.cmd = some w → w.toNat % 256 = 0 ∨ 0x0A ≤ w.toNat % 256 →
    step s = .next (answered s (failed 8 (.illegalCommand (BitVec.ofNat 8 (w.toNat % 256))))))

/-- A command in a busy block is refused (70_reset_and_hazards.md R811): every command, in every phase but IDLE. -/
def Obligations.BusyBlockRefusesCommands : Prop :=
  ∀ (i : Instr) (s : State), i.kind = .command → s.phase ≠ .idle → exec i s = .refused .commandWhileBusy

/-- The model's choice (assumption 11), the refusals of rows that no agent asks for: an entry row where no walk waits at its
level; a slot row where the phase is not TABLE, the table has not been read, it is of the other kind, or fewer bytes are
left than the slot takes to be classified (8 in a GDT, 16 in an IDT). -/
def Obligations.RowsOutsideTheirFrameAreRefused : Prop :=
  (∀ (i : Instr) (L : Level) (s : State), i.kind = .entry L → (∀ f, s.walk = some f → f.level ≠ L) →
    exec i s = .refused .entryOutsideWalk) ∧
  (∀ (i : Instr) (s : State), i.kind = .segment →
    (s.phase = .table → ∀ t, s.table = some t → t.buf ≠ none → t.kind = .gdt → t.bytes < t.off + 8) →
    exec i s = .refused .slotOutsideTable) ∧
  (∀ (i : Instr) (s : State), i.kind = .gate →
    (s.phase = .table → ∀ t, s.table = some t → t.buf ≠ none → t.kind = .idt → t.bytes < t.off + 16) →
    exec i s = .refused .slotOutsideTable)

/-- A failed read ends the command (20_memory.md R201): `HostReadFailure` with the address passed, and no later read. -/
def Obligations.FailedReadEndsTheCommand : Prop :=
  ∀ (s : State) (a : Word) (n : ReadSize) (rest : List ReaderAnswer), nextRead s = some (a, n) →
    readerAnswer s a n = (.fail, rest) →
    step s = .next (answered (afterRead s a n none rest) (failed 2 (.hostReadFailure a)))

/-- A read that is never answered leaves the command waiting (70_reset_and_hazards.md R820): every later step too is the same
state. -/
def Obligations.UnansweredReadWaitsForever : Prop :=
  ∀ (s : State) (a : Word) (n : ReadSize) (rest : List ReaderAnswer), nextRead s = some (a, n) →
    s.answers = .never :: rest → ∀ k, RunsTo k s s

/-- The reads of a step (20_memory.md R206, R220): at most one, the one the frames ask for, recorded behind the earlier ones
with an answer below 2^(8n); 8 bytes or 1. -/
def Obligations.EachStepReadsAtMostOnce : Prop :=
  ∀ (s t : State), step s = .next t →
    t.readLog = s.readLog ∨
    ∃ e, t.readLog = s.readLog ++ [e] ∧ nextRead s = some (e.addr, e.size) ∧ (e.size = .b1 ∨ e.size = .b8) ∧
      ∀ v, e.answer = some v → v.toNat < 2 ^ (8 * e.size.bytes)

/-- Alignment (20_memory.md R207): in a reachable state, every 8-byte read is at a multiple of 8 but for the level-4 read, and
that one where `root` is a multiple of 8. -/
def Obligations.EightByteReadsAreAligned : Prop :=
  ∀ (s : State) (a : Word), SequencerInv s → nextRead s = some (a, .b8) →
    (∀ f, s.walk = some f → f.level = .l4 → f.root.toNat % 8 = 0) → a.toNat % 8 = 0

/-- An 8-byte read of the image and eight 1-byte reads of the same bytes give the same bytes in the same order (20_memory.md
R203). -/
def Obligations.EightByteAnswerIsEightBytes : Prop :=
  ∀ (m : Memory) (a v : Word), imageAnswer m [] a .b8 = .value v →
    bytesLE v.toNat 8 = (List.range 8).map (fun i => Memory.read m (a + BitVec.ofNat 64 i).toNat) ∧
    ∀ i, i < 8 → imageAnswer m [] (a + BitVec.ofNat 64 i) .b1 =
      .value ((Memory.read m (a + BitVec.ofNat 64 i).toNat).setWidth 64)

/-- The abort input (60_exceptions.md R712, R705): let `t` be what a step does when the input is never set. Where that step
has had a read answered and leaves another read to come (the phase after it is WALK or RANGE), the input is sampled: set,
the command ends with `Aborted`; not set, the step is the same. Everywhere else (before the first read, after the last,
after a failed read, in a command without reads) it is not looked at. The sampling points are the rules'; that the input is
a list of which each sampling point uses up one entry, the others left for later, is the model's choice (assumption 6). -/
def Obligations.AbortActsExactlyBetweenReads : Prop :=
  ∀ (s t : State), step { s with aborts := [] } = .next t →
    if t.readLog ≠ s.readLog ∧ (t.phase = .walk ∨ t.phase = .range) then
      ∀ rest,
        step { s with aborts := false :: rest } = .next { t with aborts := rest } ∧
        step { s with aborts := true :: rest } = .next
          (answered { s with answers := t.answers, readLog := t.readLog, aborts := rest } (failed 7 .aborted))
    else ∀ as, step { s with aborts := as } = .next { t with aborts := as }

/-- An outcome ends its command (60_exceptions.md R702, R711): a step that writes RSP leaves the block idle, with no frame and
no command, ready for the next one. -/
def Obligations.AnOutcomeLeavesTheBlockIdle : Prop :=
  ∀ (s t : State), step s = .next t → t.rsp ≠ s.rsp →
    t.phase = .idle ∧ t.walk = none ∧ t.range = none ∧ t.table = none ∧ t.cmd = none

/-! ### Whole-machine rules -/

/-- No step and no instruction writes memory or the configuration (20_memory.md R205, 10_state.md R104): every byte reads as
before, and the three configuration registers hold what they held. -/
def Obligations.NothingWritesMemoryOrConfiguration : Prop :=
  (∀ (s t : State), step s = .next t →
    (∀ a, Memory.read t.mem a = Memory.read s.mem a) ∧ t.mem = s.mem ∧ t.inaccessible = s.inaccessible ∧
      t.cfgArch = s.cfgArch ∧ t.cfgVaBits = s.cfgVaBits ∧ t.cfgM = s.cfgM) ∧
  (∀ (i : Instr) (s t : State), exec i s = .next t →
    (∀ a, Memory.read t.mem a = Memory.read s.mem a) ∧ t.mem = s.mem ∧ t.inaccessible = s.inaccessible ∧
      t.cfgArch = s.cfgArch ∧ t.cfgVaBits = s.cfgVaBits ∧ t.cfgM = s.cfgM ∧
      t.answers = s.answers ∧ t.commands = s.commands ∧ t.readLog = s.readLog)

/-- No state is stuck on a fault or a refusal: from every state, reachable or not, the step answers a next state. -/
def Obligations.EveryStepAnswersANextState : Prop :=
  ∀ s : State, ∃ t, step s = .next t

/-- The sequencer's invariant holds at reset, whose configuration is the model's choice (assumption 1). -/
def Obligations.ResetIsInOrder : Prop := SequencerInv State.reset ∧ ResponseInv State.reset

/-- Every step keeps the sequencer's invariant (10_state.md R120 to R124, 41_translation.md R426, R435, R437,
42_linear_read.md R501, 43_segment_descriptors.md R571, 44_gate_descriptors.md R611). -/
def Obligations.EveryStepKeepsTheSequencerInOrder : Prop :=
  ∀ (s t : State), SequencerInv s → step s = .next t → SequencerInv t

/-- Every step keeps RSP's invariant (10_state.md R103, R108; 41_translation.md R432, R433, R435; 60_exceptions.md R701):
every translation result has 1 to 4 entries in level order and is mapped or unmapped as its last entry says. -/
def Obligations.EveryStepKeepsTheResponseInOrder : Prop :=
  ∀ (s t : State), SequencerInv s → ResponseInv s → step s = .next t → ResponseInv t

/-- Nothing carries over from one command to the next (10_state.md R125, R127): two states that differ only in the last
outcome and in the record of past reads take the same step: the same reads, the same new outcome, the same everything
else. -/
def Obligations.StepDoesNotDependOnPastCommands : Prop :=
  ∀ (s s' t : State), SameButHistory s s' → step s = .next t →
    ∃ t' events, step s' = .next t' ∧ SameButHistory t t' ∧
      t.readLog = s.readLog ++ events ∧ t'.readLog = s'.readLog ++ events ∧
      (t'.rsp = t.rsp ∨ (t.rsp = s.rsp ∧ t'.rsp = s'.rsp))

/-- Every command ends (70_reset_and_hazards.md R820): if the reader leaves no read unanswered, then from an idle block that
holds a command some number of steps leads to an idle block with an outcome, whatever the reader answers and the caller
aborts. -/
def Obligations.EveryAnsweredCommandEnds : Prop :=
  ∀ (s : State) (i : Instr), Holds s i → ReaderAnswer.never ∉ s.answers →
    ∃ n t, RunsTo n s t ∧ t.phase = .idle ∧ t.cmd = none ∧ ∃ r, t.rsp = some r
end

