-- ==== Sys2Proof/Laws/Bits.lean ====
section
/-!
SUPPORT. Laws/Bits.lean: the bit-field extractor and the byte-order helpers: one extractor serves the decoders
(spec/40_bitfield.md R403), and `LE(bytesLE(v, k)) = v mod 2^(8k)` (00_scope.md R12).
-/

namespace Sys2Proof

/-- A slice that a decoder takes is what the extractor gives on the value (R403). -/
theorem field_toNat {w : Nat} (v : BitVec w) (lo n : Nat) : (field v lo n).toNat = bits v.toNat lo n := by
  simp [bits, BitVec.extractLsb'_toNat]

/-- The extractor as quotient and remainder. -/
theorem bits_eq_div_mod (v s n : Nat) : bits v s n = v / 2 ^ s % 2 ^ n := by
  simp [bits, Nat.shiftRight_eq_div_pow]

@[simp] theorem length_bytesLE (v k : Nat) : (bytesLE v k).length = k := by
  induction k generalizing v with
  | zero => rfl
  | succ k ih => simp [bytesLE, ih]

/-- `LE(bytesLE(v, k)) = v mod 2^(8k)` (00_scope.md R12). -/
theorem le_bytesLE (v k : Nat) : le (bytesLE v k) = v % 2 ^ (8 * k) := by
  induction k generalizing v with
  | zero => simp [bytesLE, le, Nat.mod_one]
  | succ k ih =>
    have h : 2 ^ (8 * (k + 1)) = 256 * 2 ^ (8 * k) := by rw [Nat.mul_add, Nat.pow_add]; simp [Nat.mul_comm]
    simp [bytesLE, le, ih, h, Nat.mod_mul]

/-- The value of two lists of bytes, one after the other. -/
theorem le_append (a b : List Byte) : le (a ++ b) = le a + 2 ^ (8 * a.length) * le b := by
  induction a with
  | nil => simp [le]
  | cons x xs ih =>
    have h : 2 ^ (8 * (xs.length + 1)) = 256 * 2 ^ (8 * xs.length) := by rw [Nat.mul_add, Nat.pow_add]; simp [Nat.mul_comm]
    simp only [List.cons_append, le, ih, List.length_cons, h]
    ring

/-- The value of a list of bytes fits its bytes. -/
theorem le_lt (bs : List Byte) : le bs < 2 ^ (8 * bs.length) := by
  induction bs with
  | nil => simp [le]
  | cons b rest ih =>
    have hb : b.toNat < 2 ^ 8 := b.isLt
    have h : 2 ^ (8 * (rest.length + 1)) = 256 * 2 ^ (8 * rest.length) := by rw [Nat.mul_add, Nat.pow_add]; simp [Nat.mul_comm]
    simp only [le, List.length_cons, h]
    omega

/-- A list of bytes is the bytes of its value. -/
theorem bytesLE_le (bs : List Byte) : bytesLE (le bs) bs.length = bs := by
  induction bs with
  | nil => rfl
  | cons b rest ih =>
    have hb : b.toNat < 256 := b.isLt
    have h1 : (b.toNat + 256 * le rest) / 256 = le rest := by omega
    have h2 : BitVec.ofNat 8 (b.toNat + 256 * le rest) = b := by
      apply BitVec.eq_of_toNat_eq
      simp only [BitVec.toNat_ofNat]
      omega
    simp only [le, List.length_cons, bytesLE, h1, h2, ih]

end Sys2Proof
end

