-- ==== Sys2Proof/Laws/State.lean ====
section
/-!
SUPPORT. Laws/State.lean: what each named update of the state leaves in each field, one lemma per field per update, so
that no proof unfolds a record update.
-/

namespace Sys2Proof.Machine

variable (s : State)

/-! ### `endCommand` -/

@[simp] theorem State.endCommand_cfgArch (r : Response) : (s.endCommand r).cfgArch = s.cfgArch := rfl
@[simp] theorem State.endCommand_cfgVaBits (r : Response) : (s.endCommand r).cfgVaBits = s.cfgVaBits := rfl
@[simp] theorem State.endCommand_cfgM (r : Response) : (s.endCommand r).cfgM = s.cfgM := rfl
@[simp] theorem State.endCommand_cmd (r : Response) : (s.endCommand r).cmd = none := rfl
@[simp] theorem State.endCommand_rsp (r : Response) : (s.endCommand r).rsp = some r := rfl
@[simp] theorem State.endCommand_walk (r : Response) : (s.endCommand r).walk = none := rfl
@[simp] theorem State.endCommand_range (r : Response) : (s.endCommand r).range = none := rfl
@[simp] theorem State.endCommand_table (r : Response) : (s.endCommand r).table = none := rfl
@[simp] theorem State.endCommand_mem (r : Response) : (s.endCommand r).mem = s.mem := rfl
@[simp] theorem State.endCommand_inaccessible (r : Response) : (s.endCommand r).inaccessible = s.inaccessible := rfl
@[simp] theorem State.endCommand_answers (r : Response) : (s.endCommand r).answers = s.answers := rfl
@[simp] theorem State.endCommand_commands (r : Response) : (s.endCommand r).commands = s.commands := rfl
@[simp] theorem State.endCommand_aborts (r : Response) : (s.endCommand r).aborts = s.aborts := rfl
@[simp] theorem State.endCommand_readLog (r : Response) : (s.endCommand r).readLog = s.readLog := rfl
@[simp] theorem State.endCommand_phase (r : Response) : (s.endCommand r).phase = .idle := rfl

/-! ### `complete` -/

@[simp] theorem State.complete_cfgArch (p : Payload) : (s.complete p).cfgArch = s.cfgArch := rfl
@[simp] theorem State.complete_cfgVaBits (p : Payload) : (s.complete p).cfgVaBits = s.cfgVaBits := rfl
@[simp] theorem State.complete_cfgM (p : Payload) : (s.complete p).cfgM = s.cfgM := rfl
@[simp] theorem State.complete_cmd (p : Payload) : (s.complete p).cmd = none := rfl
@[simp] theorem State.complete_rsp (p : Payload) : (s.complete p).rsp = some ⟨0, p⟩ := rfl
@[simp] theorem State.complete_walk (p : Payload) : (s.complete p).walk = none := rfl
@[simp] theorem State.complete_range (p : Payload) : (s.complete p).range = none := rfl
@[simp] theorem State.complete_table (p : Payload) : (s.complete p).table = none := rfl
@[simp] theorem State.complete_mem (p : Payload) : (s.complete p).mem = s.mem := rfl
@[simp] theorem State.complete_inaccessible (p : Payload) : (s.complete p).inaccessible = s.inaccessible := rfl
@[simp] theorem State.complete_answers (p : Payload) : (s.complete p).answers = s.answers := rfl
@[simp] theorem State.complete_commands (p : Payload) : (s.complete p).commands = s.commands := rfl
@[simp] theorem State.complete_aborts (p : Payload) : (s.complete p).aborts = s.aborts := rfl
@[simp] theorem State.complete_readLog (p : Payload) : (s.complete p).readLog = s.readLog := rfl
@[simp] theorem State.complete_phase (p : Payload) : (s.complete p).phase = .idle := rfl

/-! ### `raise` -/

@[simp] theorem State.raise_cfgArch (e : ErrInfo) : (s.raise e).cfgArch = s.cfgArch := rfl
@[simp] theorem State.raise_cfgVaBits (e : ErrInfo) : (s.raise e).cfgVaBits = s.cfgVaBits := rfl
@[simp] theorem State.raise_cfgM (e : ErrInfo) : (s.raise e).cfgM = s.cfgM := rfl
@[simp] theorem State.raise_cmd (e : ErrInfo) : (s.raise e).cmd = none := rfl
@[simp] theorem State.raise_rsp (e : ErrInfo) : (s.raise e).rsp = some ⟨errorCode e, .error e⟩ := rfl
@[simp] theorem State.raise_walk (e : ErrInfo) : (s.raise e).walk = none := rfl
@[simp] theorem State.raise_range (e : ErrInfo) : (s.raise e).range = none := rfl
@[simp] theorem State.raise_table (e : ErrInfo) : (s.raise e).table = none := rfl
@[simp] theorem State.raise_mem (e : ErrInfo) : (s.raise e).mem = s.mem := rfl
@[simp] theorem State.raise_inaccessible (e : ErrInfo) : (s.raise e).inaccessible = s.inaccessible := rfl
@[simp] theorem State.raise_answers (e : ErrInfo) : (s.raise e).answers = s.answers := rfl
@[simp] theorem State.raise_commands (e : ErrInfo) : (s.raise e).commands = s.commands := rfl
@[simp] theorem State.raise_aborts (e : ErrInfo) : (s.raise e).aborts = s.aborts := rfl
@[simp] theorem State.raise_readLog (e : ErrInfo) : (s.raise e).readLog = s.readLog := rfl
@[simp] theorem State.raise_phase (e : ErrInfo) : (s.raise e).phase = .idle := rfl

/-! ### `recordRead` -/

@[simp] theorem State.recordRead_cfgArch (rest : List ReaderAnswer) (e : ReadEvent) : (s.recordRead rest e).cfgArch = s.cfgArch := rfl
@[simp] theorem State.recordRead_cfgVaBits (rest : List ReaderAnswer) (e : ReadEvent) : (s.recordRead rest e).cfgVaBits = s.cfgVaBits := rfl
@[simp] theorem State.recordRead_cfgM (rest : List ReaderAnswer) (e : ReadEvent) : (s.recordRead rest e).cfgM = s.cfgM := rfl
@[simp] theorem State.recordRead_cmd (rest : List ReaderAnswer) (e : ReadEvent) : (s.recordRead rest e).cmd = s.cmd := rfl
@[simp] theorem State.recordRead_rsp (rest : List ReaderAnswer) (e : ReadEvent) : (s.recordRead rest e).rsp = s.rsp := rfl
@[simp] theorem State.recordRead_walk (rest : List ReaderAnswer) (e : ReadEvent) : (s.recordRead rest e).walk = s.walk := rfl
@[simp] theorem State.recordRead_range (rest : List ReaderAnswer) (e : ReadEvent) : (s.recordRead rest e).range = s.range := rfl
@[simp] theorem State.recordRead_table (rest : List ReaderAnswer) (e : ReadEvent) : (s.recordRead rest e).table = s.table := rfl
@[simp] theorem State.recordRead_mem (rest : List ReaderAnswer) (e : ReadEvent) : (s.recordRead rest e).mem = s.mem := rfl
@[simp] theorem State.recordRead_inaccessible (rest : List ReaderAnswer) (e : ReadEvent) : (s.recordRead rest e).inaccessible = s.inaccessible := rfl
@[simp] theorem State.recordRead_answers (rest : List ReaderAnswer) (e : ReadEvent) : (s.recordRead rest e).answers = rest := rfl
@[simp] theorem State.recordRead_commands (rest : List ReaderAnswer) (e : ReadEvent) : (s.recordRead rest e).commands = s.commands := rfl
@[simp] theorem State.recordRead_aborts (rest : List ReaderAnswer) (e : ReadEvent) : (s.recordRead rest e).aborts = s.aborts := rfl
@[simp] theorem State.recordRead_readLog (rest : List ReaderAnswer) (e : ReadEvent) : (s.recordRead rest e).readLog = s.readLog ++ [e] := rfl
@[simp] theorem State.recordRead_phase (rest : List ReaderAnswer) (e : ReadEvent) : (s.recordRead rest e).phase = s.phase := rfl

/-! ### `guestStore` -/

@[simp] theorem State.guestStore_cfgArch (a : Word) (v : Byte) : (s.guestStore a v).cfgArch = s.cfgArch := rfl
@[simp] theorem State.guestStore_cfgVaBits (a : Word) (v : Byte) : (s.guestStore a v).cfgVaBits = s.cfgVaBits := rfl
@[simp] theorem State.guestStore_cfgM (a : Word) (v : Byte) : (s.guestStore a v).cfgM = s.cfgM := rfl
@[simp] theorem State.guestStore_cmd (a : Word) (v : Byte) : (s.guestStore a v).cmd = s.cmd := rfl
@[simp] theorem State.guestStore_rsp (a : Word) (v : Byte) : (s.guestStore a v).rsp = s.rsp := rfl
@[simp] theorem State.guestStore_walk (a : Word) (v : Byte) : (s.guestStore a v).walk = s.walk := rfl
@[simp] theorem State.guestStore_range (a : Word) (v : Byte) : (s.guestStore a v).range = s.range := rfl
@[simp] theorem State.guestStore_table (a : Word) (v : Byte) : (s.guestStore a v).table = s.table := rfl
@[simp] theorem State.guestStore_mem (a : Word) (v : Byte) : (s.guestStore a v).mem = s.mem.write a.toNat v := rfl
@[simp] theorem State.guestStore_inaccessible (a : Word) (v : Byte) : (s.guestStore a v).inaccessible = s.inaccessible := rfl
@[simp] theorem State.guestStore_answers (a : Word) (v : Byte) : (s.guestStore a v).answers = s.answers := rfl
@[simp] theorem State.guestStore_commands (a : Word) (v : Byte) : (s.guestStore a v).commands = s.commands := rfl
@[simp] theorem State.guestStore_aborts (a : Word) (v : Byte) : (s.guestStore a v).aborts = s.aborts := rfl
@[simp] theorem State.guestStore_readLog (a : Word) (v : Byte) : (s.guestStore a v).readLog = s.readLog := rfl
@[simp] theorem State.guestStore_phase (a : Word) (v : Byte) : (s.guestStore a v).phase = s.phase := rfl

/-! ### `holdingCommand` -/

@[simp] theorem State.holdingCommand_cfgArch (w : CommandWord) : (s.holdingCommand w).cfgArch = s.cfgArch := rfl
@[simp] theorem State.holdingCommand_cfgVaBits (w : CommandWord) : (s.holdingCommand w).cfgVaBits = s.cfgVaBits := rfl
@[simp] theorem State.holdingCommand_cfgM (w : CommandWord) : (s.holdingCommand w).cfgM = s.cfgM := rfl
@[simp] theorem State.holdingCommand_cmd (w : CommandWord) : (s.holdingCommand w).cmd = some w := rfl
@[simp] theorem State.holdingCommand_rsp (w : CommandWord) : (s.holdingCommand w).rsp = s.rsp := rfl
@[simp] theorem State.holdingCommand_walk (w : CommandWord) : (s.holdingCommand w).walk = none := rfl
@[simp] theorem State.holdingCommand_range (w : CommandWord) : (s.holdingCommand w).range = none := rfl
@[simp] theorem State.holdingCommand_table (w : CommandWord) : (s.holdingCommand w).table = none := rfl
@[simp] theorem State.holdingCommand_mem (w : CommandWord) : (s.holdingCommand w).mem = s.mem := rfl
@[simp] theorem State.holdingCommand_inaccessible (w : CommandWord) : (s.holdingCommand w).inaccessible = s.inaccessible := rfl
@[simp] theorem State.holdingCommand_answers (w : CommandWord) : (s.holdingCommand w).answers = s.answers := rfl
@[simp] theorem State.holdingCommand_commands (w : CommandWord) : (s.holdingCommand w).commands = s.commands := rfl
@[simp] theorem State.holdingCommand_aborts (w : CommandWord) : (s.holdingCommand w).aborts = s.aborts := rfl
@[simp] theorem State.holdingCommand_readLog (w : CommandWord) : (s.holdingCommand w).readLog = s.readLog := rfl
@[simp] theorem State.holdingCommand_phase (w : CommandWord) : (s.holdingCommand w).phase = .idle := rfl

/-! ### The phase of a state by its frames -/

theorem State.phase_idle_iff : s.phase = .idle ↔ s.walk = none ∧ s.range = none ∧ s.table = none := by
  unfold State.phase
  cases s.walk <;> cases s.range <;> cases s.table <;> simp

theorem State.phase_table_iff : s.phase = .table ↔ s.walk = none ∧ s.range = none ∧ ∃ t, s.table = some t := by
  unfold State.phase
  cases s.walk <;> cases s.range <;> cases s.table <;> simp

end Sys2Proof.Machine
end

