-- ==== Sys2Proof/Laws/Ops.lean ====
section
/-!
SUPPORT. Laws/Ops.lean: for each shared operation, once, everything it can do. A proof about a step cites these and
unfolds none of the operations.
-/

namespace Sys2Proof.Machine

open Sys2Proof.Safety

theorem State.endCommand_eq_answered (s : State) (r : Response) : s.endCommand r = answered s r := rfl

theorem State.complete_eq_answered (s : State) (p : Payload) : s.complete p = answered s (okay p) := rfl

theorem State.raise_eq_answered (s : State) (e : ErrInfo) : s.raise e = answered s (failed (errorCode e) e) := rfl

/-- A command starts in an idle block and in no other. -/
theorem State.startCommand_eq (s : State) (k : State → State) :
    s.startCommand k = if s.phase = .idle then .next (k s) else .refused .commandWhileBusy := rfl

/-- If a command's meaning answers a next state, the block was idle and the state is the meaning's. -/
theorem State.startCommand_next {s t : State} {k : State → State} (h : s.startCommand k = .next t) :
    s.phase = .idle ∧ t = k s := by
  unfold State.startCommand at h
  split at h
  · rename_i hp
    exact ⟨hp, by cases h; rfl⟩
  · cases h

/-- What sampling the abort input can do. -/
theorem State.sampleAbort_cases (s : State) :
    (s.aborts = [] ∧ s.sampleAbort = s) ∨
    (∃ rest, s.aborts = false :: rest ∧ s.sampleAbort = { s with aborts := rest }) ∨
    (∃ rest, s.aborts = true :: rest ∧ s.sampleAbort = State.raise { s with aborts := rest } .aborted) := by
  unfold State.sampleAbort
  rcases s.aborts with _ | ⟨_ | _, rest⟩
  · exact .inl ⟨rfl, rfl⟩
  · exact .inr (.inl ⟨rest, rfl, rfl⟩)
  · exact .inr (.inr ⟨rest, rfl, rfl⟩)

/-- What a read can do: its continuation after a value, the end of the command after a failure, nothing if it is never
answered. -/
theorem memRead_cases (s : State) (a : Word) (n : ReadSize) (k : Word → State → Fetched) :
    (∃ v rest, readerAnswer s a n = (.value v, rest) ∧ memRead s a n k = k v (afterRead s a n (some v) rest)) ∨
    (∃ rest, readerAnswer s a n = (.fail, rest) ∧
      memRead s a n k = .done (State.raise (afterRead s a n none rest) (.hostReadFailure a))) ∨
    (∃ rest, readerAnswer s a n = (.never, rest) ∧ memRead s a n k = .done s) := by
  unfold memRead
  rcases h : readerAnswer s a n with ⟨_ | _ | _, rest⟩
  · exact .inl ⟨_, rest, rfl, rfl⟩
  · exact .inr (.inl ⟨rest, rfl, rfl⟩)
  · exact .inr (.inr ⟨rest, rfl, rfl⟩)

/-- The start of a walk. -/
theorem State.beginWalk_cases (s : State) (root va : Word) :
    (s.acceptsVa va = true ∧ s.beginWalk root va = { s with walk := some (firstWalkFrame root va) }) ∨
    (s.acceptsVa va = false ∧ s.beginWalk root va = s.raise (.addressWidthViolation va)) := by
  unfold State.beginWalk
  cases h : s.acceptsVa va
  · exact .inr ⟨rfl, rfl⟩
  · exact .inl ⟨rfl, rfl⟩

/-- The end of a READ. -/
theorem State.endRange_cases (s : State) (out : List Byte) :
    (s.table = none ∧ s.endRange out = s.complete (.bytes out)) ∨
    (∃ t, s.table = some t ∧
      s.endRange out = { s with walk := none, range := none, table := some { t with buf := some out } }) := by
  unfold State.endRange
  cases h : s.table with
  | none => exact .inl ⟨rfl, rfl⟩
  | some t => exact .inr ⟨t, rfl, rfl⟩

/-- The head of READ's loop. -/
theorem State.rangeLoop_cases (s : State) (r : RangeFrame) (afterRead : Bool) :
    (r.remaining = 0 ∧ s.rangeLoop r afterRead = s.endRange r.out) ∨
    (r.remaining ≠ 0 ∧ s.acceptsVa r.cur = false ∧ s.rangeLoop r afterRead = s.raise (.addressWidthViolation r.cur)) ∨
    (r.remaining ≠ 0 ∧ s.acceptsVa r.cur = true ∧ s.rangeLoop r afterRead =
      if afterRead then State.sampleAbort { s with range := some r, walk := some (firstWalkFrame r.root r.cur) }
      else { s with range := some r, walk := some (firstWalkFrame r.root r.cur) }) := by
  unfold State.rangeLoop
  by_cases h : r.remaining = 0
  · exact .inl ⟨h, if_pos h⟩
  · cases ha : s.acceptsVa r.cur
    · exact .inr (.inl ⟨h, rfl, by rw [if_neg h, if_neg Bool.false_ne_true]⟩)
    · exact .inr (.inr ⟨h, rfl, by rw [if_neg h, if_pos rfl]⟩)

/-- What follows an answered data read of `n` bytes: the copy goes on behind them, or the chunk is done and the loop over
pages goes on behind it. -/
theorem State.afterDataRead_cases (s : State) (r : RangeFrame) (c : CopyState) (n : Nat) (v : Word) :
    (c.chunkLeft - BitVec.ofNat 64 n ≠ 0 ∧ s.afterDataRead r c n v = State.sampleAbort
      { s with range := some
                { r with out := r.out ++ bytesLE v.toNat n
                         copy := some { c with pa := c.pa + BitVec.ofNat 64 n
                                               chunkLeft := c.chunkLeft - BitVec.ofNat 64 n } } }) ∨
    (c.chunkLeft - BitVec.ofNat 64 n = 0 ∧ s.afterDataRead r c n v = s.rangeLoop
      { r with cur := r.cur + c.chunk, remaining := r.remaining - c.chunk, out := r.out ++ bytesLE v.toNat n
               copy := none } true) := by
  by_cases h : c.chunkLeft - BitVec.ofNat 64 n = 0
  · exact .inr ⟨h, if_pos h⟩
  · exact .inl ⟨h, if_neg h⟩

/-- The start of a table command: the TABLE frame, and READ's loop over its `limit + 1` bytes. -/
theorem State.beginTable_eq (s : State) (kind : TableKind) (root base : Word) (limit : BitVec 16) :
    s.beginTable kind root base limit =
      State.rangeLoop
        { s with table := some
                  { kind := kind, root := root, base := base, limit := limit, buf := none, off := 0, segs := [], gates := [] } }
        { root := root, cur := base, remaining := BitVec.ofNat 64 (limit.toNat + 1), out := [], copy := none } false := rfl

/-- What the reader answers: the image past the script; in it a value reduced to the read's size, a failure, or nothing. -/
theorem readerAnswer_cases (s : State) (a : Word) (n : ReadSize) :
    (s.answers = [] ∧ readerAnswer s a n = (imageAnswer s.mem s.inaccessible a n, [])) ∨
    (∃ v rest, s.answers = .value v :: rest ∧
      readerAnswer s a n = (.value (BitVec.ofNat 64 (v.toNat % 2 ^ (8 * n.bytes))), rest)) ∨
    (∃ rest, s.answers = .fail :: rest ∧ readerAnswer s a n = (.fail, rest)) ∨
    (∃ rest, s.answers = .never :: rest ∧ readerAnswer s a n = (.never, .never :: rest)) := by
  unfold readerAnswer
  rcases s.answers with _ | ⟨v | _ | _, rest⟩
  · exact .inl ⟨rfl, rfl⟩
  · exact .inr (.inl ⟨v, rest, rfl, rfl⟩)
  · exact .inr (.inr (.inl ⟨rest, rfl, rfl⟩))
  · exact .inr (.inr (.inr ⟨rest, rfl, rfl⟩))

/-- The end of a walk. -/
theorem State.endWalk_cases (s : State) (t : TranslationResult) :
    (s.range = none ∧ s.endWalk t = s.complete (.translation t)) ∨
    (∃ r base size offset, s.range = some r ∧
      t.pageBase = some base ∧ t.pageSize = some size ∧ t.pageOffset = some offset ∧
      s.endWalk t = State.sampleAbort { s with walk := none, range := some (r.beginChunk base size offset) }) ∨
    (∃ r, s.range = some r ∧ (t.pageBase = none ∨ t.pageSize = none ∨ t.pageOffset = none) ∧
      s.endWalk t = s.raise (.unmappedRange r.cur)) := by
  unfold State.endWalk
  cases h : s.range with
  | none => exact .inl ⟨rfl, rfl⟩
  | some r =>
    right
    obtain ⟨_ | base, _ | size, _ | offset, es⟩ := t
    case some.some.some => exact .inl ⟨r, base, size, offset, rfl, rfl, rfl, rfl, rfl⟩
    all_goals exact .inr ⟨r, rfl, by simp, rfl⟩

/-- An entry row answers a next state exactly where a WALK frame of its level waits. -/
theorem State.inWalk_of_level {s : State} {f : WalkFrame} {L : Level} (k : WalkFrame → State) (hf : s.walk = some f)
    (hl : f.level = L) : s.inWalk L k = .next (k f) := by
  simp [State.inWalk, hf, hl]

theorem State.inWalk_next {s t : State} {L : Level} {k : WalkFrame → State} (h : s.inWalk L k = .next t) :
    ∃ f, s.walk = some f ∧ f.level = L ∧ t = k f := by
  unfold State.inWalk at h
  split at h
  · rename_i f hf
    split at h
    · rename_i hl
      exact ⟨f, hf, hl, by cases h; rfl⟩
    · cases h
  · cases h

/-- A slot row answers a next state exactly where a TABLE frame of its kind is at a slot. -/
theorem State.inSlot_of_table {s : State} {t : TableFrame} {buf : List Byte} {kind : TableKind} {stride : Nat}
    (k : TableFrame → List Byte → State) (hw : s.walk = none) (hr : s.range = none) (ht : s.table = some t)
    (hb : t.buf = some buf) (hk : t.kind = kind) (ho : t.off + stride ≤ t.bytes) :
    s.inSlot kind stride k = .next (k t buf) := by
  have hp : s.phase = .table := (State.phase_table_iff s).mpr ⟨hw, hr, t, ht⟩
  simp [State.inSlot, hp, ht, hb, hk, ho]

theorem State.inSlot_next {s u : State} {kind : TableKind} {stride : Nat} {k : TableFrame → List Byte → State}
    (h : s.inSlot kind stride k = .next u) :
    s.walk = none ∧ s.range = none ∧ ∃ t buf, s.table = some t ∧ t.buf = some buf ∧ t.kind = kind ∧
      t.off + stride ≤ t.bytes ∧ u = k t buf := by
  unfold State.inSlot at h
  split at h
  · rename_i hp
    obtain ⟨hw, hr, t, ht⟩ := (State.phase_table_iff s).mp hp
    rw [ht] at h
    cases hb : t.buf with
    | none => simp [hb] at h
    | some buf =>
      simp only [hb] at h
      split at h
      · rename_i hc
        exact ⟨hw, hr, t, buf, ht, hb, hc.1, hc.2, by cases h; rfl⟩
      · cases h
  · cases h

/-- One step, by what the fetch has in hand. -/
theorem step_cases (s : State) :
    (∃ i s', fetch s = .run i s' ∧ step s = exec i s') ∨ (∃ t, fetch s = .done t ∧ step s = .next t) := by
  unfold step
  cases h : fetch s with
  | run i s' => exact .inl ⟨i, s', rfl, rfl⟩
  | done t => exact .inr ⟨t, rfl, rfl⟩

/-- The fetch, by the top frame. -/
theorem fetch_cases (s : State) :
    (∃ f, s.walk = some f ∧ fetch s = walkStep s f) ∨
    (∃ r, s.walk = none ∧ s.range = some r ∧ fetch s = rangeStep s r) ∨
    (∃ t, s.walk = none ∧ s.range = none ∧ s.table = some t ∧ fetch s = tableStep s t) ∨
    (∃ w, s.phase = .idle ∧ s.cmd = some w ∧ fetch s = .run (decodeCommand w) s) ∨
    (s.phase = .idle ∧ s.cmd = none ∧ fetch s = .done s.callerStep) := by
  have hp := State.phase_idle_iff s
  cases hw : s.walk with
  | some f => exact .inl ⟨f, rfl, by simp [fetch, hw]⟩
  | none =>
    right
    cases hr : s.range with
    | some r => exact .inl ⟨r, rfl, rfl, by simp [fetch, hw, hr]⟩
    | none =>
      right
      cases ht : s.table with
      | some t => exact .inl ⟨t, rfl, rfl, rfl, by simp [fetch, hw, hr, ht]⟩
      | none =>
        have hi : s.phase = .idle := hp.mpr ⟨hw, hr, ht⟩
        right
        cases hc : s.cmd with
        | some w => exact .inl ⟨w, hi, rfl, by simp [fetch, hw, hr, ht, hc]⟩
        | none => exact .inr ⟨hi, rfl, by simp [fetch, hw, hr, ht, hc]⟩

end Sys2Proof.Machine
end

