-- ==== Sys2Proof/Laws/PerInstr.lean ====
section
/-!
SUPPORT. Laws/PerInstr.lean: statements about every instruction as syntax, one lemma per constructor of Instr.
-/

namespace Sys2Proof.Laws.EncodeLength

/-- How many bytes an instruction of each kind takes: a command as many as its opcode tells (spec/30_encoding.md R301,
R302), an entry and the classifying half of a GDT slot 8, an IDT slot 16 (R327). -/
def lengthOf (i : Instr) : Nat :=
  match i.kind with
  | .command => commandLength ((encode i).headD 0)
  | .entry _ | .segment => 8
  | .gate => 16

/-- The encoding of a well-formed instruction has the length of its kind. -/
def Statement (i : Instr) : Prop := i.wf = true → (encode i).length = lengthOf i

theorem bits (value : Word128) (start nbits : BitVec 8) : Statement (.bits value start nbits) := by
  intro _
  simp [encode, lengthOf, Instr.kind, commandLength]

theorem split (va : Word) : Statement (.split va) := by
  intro _
  simp [encode, lengthOf, Instr.kind, commandLength]

theorem pteDecode (level : BitVec 8) (tableBase : Word) (index : BitVec 16) (raw : Word) : Statement (.pteDecode level tableBase index raw) := by
  intro _
  simp [encode, lengthOf, Instr.kind, commandLength]

theorem resolve (root va : Word) : Statement (.resolve root va) := by
  intro _
  simp [encode, lengthOf, Instr.kind, commandLength]

theorem read (root va length : Word) : Statement (.read root va length) := by
  intro _
  simp [encode, lengthOf, Instr.kind, commandLength]

theorem segCreate (n : BitVec 8) (b : Word128) : Statement (.segCreate n b) := by
  intro _
  simp [encode, lengthOf, Instr.kind, commandLength]

theorem gateDecode (b : Word128) : Statement (.gateDecode b) := by
  intro _
  simp [encode, lengthOf, Instr.kind, commandLength]

theorem gdt (root base : Word) (limit : BitVec 16) : Statement (.gdt root base limit) := by
  intro _
  simp [encode, lengthOf, Instr.kind, commandLength]

theorem idt (root base : Word) (limit : BitVec 16) : Statement (.idt root base limit) := by
  intro _
  simp [encode, lengthOf, Instr.kind, commandLength]

theorem illegalCommand (opcode : BitVec 8) : Statement (.illegalCommand opcode) := by
  intro h
  have hc : commandLength opcode = 1 := by revert h; revert opcode; decide
  simpa [encode, lengthOf, Instr.kind] using hc.symm

theorem pteL4P0 (raw : Word) : Statement (.pteL4P0 raw) := by
  intro _
  simp [encode, lengthOf, Instr.kind]

theorem pteL4P1PS0 (raw : Word) : Statement (.pteL4P1PS0 raw) := by
  intro _
  simp [encode, lengthOf, Instr.kind]

theorem pteL4P1PS1 (raw : Word) : Statement (.pteL4P1PS1 raw) := by
  intro _
  simp [encode, lengthOf, Instr.kind]

theorem pteL3P0PS0 (raw : Word) : Statement (.pteL3P0PS0 raw) := by
  intro _
  simp [encode, lengthOf, Instr.kind]

theorem pteL3P0PS1 (raw : Word) : Statement (.pteL3P0PS1 raw) := by
  intro _
  simp [encode, lengthOf, Instr.kind]

theorem pteL3P1PS0 (raw : Word) : Statement (.pteL3P1PS0 raw) := by
  intro _
  simp [encode, lengthOf, Instr.kind]

theorem pteL3P1PS1 (raw : Word) : Statement (.pteL3P1PS1 raw) := by
  intro _
  simp [encode, lengthOf, Instr.kind]

theorem pteL2P0PS0 (raw : Word) : Statement (.pteL2P0PS0 raw) := by
  intro _
  simp [encode, lengthOf, Instr.kind]

theorem pteL2P0PS1 (raw : Word) : Statement (.pteL2P0PS1 raw) := by
  intro _
  simp [encode, lengthOf, Instr.kind]

theorem pteL2P1PS0 (raw : Word) : Statement (.pteL2P1PS0 raw) := by
  intro _
  simp [encode, lengthOf, Instr.kind]

theorem pteL2P1PS1 (raw : Word) : Statement (.pteL2P1PS1 raw) := by
  intro _
  simp [encode, lengthOf, Instr.kind]

theorem pteL1P0 (raw : Word) : Statement (.pteL1P0 raw) := by
  intro _
  simp [encode, lengthOf, Instr.kind]

theorem pteL1P1 (raw : Word) : Statement (.pteL1P1 raw) := by
  intro _
  simp [encode, lengthOf, Instr.kind]

theorem segdescData (d : Word) : Statement (.segdescData d) := by
  intro _
  simp [encode, lengthOf, Instr.kind]

theorem segdescCode (d : Word) : Statement (.segdescCode d) := by
  intro _
  simp [encode, lengthOf, Instr.kind]

theorem segdescNull (d : Word) : Statement (.segdescNull d) := by
  intro _
  simp [encode, lengthOf, Instr.kind]

theorem segdescCallgate (d : Word) : Statement (.segdescCallgate d) := by
  intro _
  simp [encode, lengthOf, Instr.kind]

theorem segdescTssT9 (d : Word) : Statement (.segdescTssT9 d) := by
  intro _
  simp [encode, lengthOf, Instr.kind]

theorem segdescTssTB (d : Word) : Statement (.segdescTssTB d) := by
  intro _
  simp [encode, lengthOf, Instr.kind]

theorem segdescTssTD (d : Word) : Statement (.segdescTssTD d) := by
  intro _
  simp [encode, lengthOf, Instr.kind]

theorem segdescUnsupportedT1 (d : Word) : Statement (.segdescUnsupportedT1 d) := by
  intro _
  simp [encode, lengthOf, Instr.kind]

theorem segdescUnsupportedT2 (d : Word) : Statement (.segdescUnsupportedT2 d) := by
  intro _
  simp [encode, lengthOf, Instr.kind]

theorem segdescUnsupportedT3 (d : Word) : Statement (.segdescUnsupportedT3 d) := by
  intro _
  simp [encode, lengthOf, Instr.kind]

theorem segdescUnsupportedT4 (d : Word) : Statement (.segdescUnsupportedT4 d) := by
  intro _
  simp [encode, lengthOf, Instr.kind]

theorem segdescUnsupportedT5 (d : Word) : Statement (.segdescUnsupportedT5 d) := by
  intro _
  simp [encode, lengthOf, Instr.kind]

theorem segdescUnsupportedT6 (d : Word) : Statement (.segdescUnsupportedT6 d) := by
  intro _
  simp [encode, lengthOf, Instr.kind]

theorem segdescUnsupportedT7 (d : Word) : Statement (.segdescUnsupportedT7 d) := by
  intro _
  simp [encode, lengthOf, Instr.kind]

theorem segdescUnsupportedT8 (d : Word) : Statement (.segdescUnsupportedT8 d) := by
  intro _
  simp [encode, lengthOf, Instr.kind]

theorem segdescUnsupportedTA (d : Word) : Statement (.segdescUnsupportedTA d) := by
  intro _
  simp [encode, lengthOf, Instr.kind]

theorem segdescUnsupportedTC (d : Word) : Statement (.segdescUnsupportedTC d) := by
  intro _
  simp [encode, lengthOf, Instr.kind]

theorem segdescUnsupportedTE (d : Word) : Statement (.segdescUnsupportedTE d) := by
  intro _
  simp [encode, lengthOf, Instr.kind]

theorem gatedesc (q : Word128) : Statement (.gatedesc q) := by
  intro _
  simp [encode, lengthOf, Instr.kind]

end Sys2Proof.Laws.EncodeLength
end

