-- ==== Sys2Proof/Tests/Slice0.lean ====
section
/-!
SUPPORT. Tests/Slice0.lean: the model's own tests. Every expected value comes from spec/: the encodings and vectors of
95_test_vectors.md (named by their ids), the layouts of 30_encoding.md, the corner cases of the rules. Then one witness
for each statement of Certificates/Slice0/Obligations.lean that has hypotheses: a concrete state and operands that meet
them all.
-/

namespace Sys2Proof.Tests

open Sys2Proof.Machine Sys2Proof.Safety

/-! ### Small states and the fields of an outcome -/

/-- The state a step or a meaning answers with. -/
def nextOf : Host.Outcome State Fault Refusal → Option State
  | .next s => some s
  | .fault _ | .refused _ => none

/-- RSP after it. -/
def rspOf (o : Host.Outcome State Fault Refusal) : Option Response := (nextOf o).bind State.rsp

/-- Why it was refused. -/
def refusalOf : Host.Outcome State Fault Refusal → Option Refusal
  | .refused r => some r
  | .next _ | .fault _ => none

/-- The decoded entry RSP holds after it. -/
def entryOf (o : Host.Outcome State Fault Refusal) : Option Entry :=
  match (rspOf o).map Response.payload with
  | some (.entry e) => some e
  | _ => none

/-- The translation RSP holds after it: base, size, offset and the number of entries. -/
def translationOf (o : Host.Outcome State Fault Refusal) : Option (Option Word × Option Nat × Option (BitVec 30) × Nat) :=
  match (rspOf o).map Response.payload with
  | some (.translation t) => some (t.pageBase, t.pageSize, t.pageOffset, t.entries.length)
  | _ => none

/-- The level and table of the WALK frame after it. -/
def walkOf (o : Host.Outcome State Fault Refusal) : Option (Level × Word) :=
  (nextOf o).bind fun s => s.walk.map fun f => (f.level, f.tableBase)

/-- The cursor and the descriptors of the TABLE frame after it. -/
def slotsOf (o : Host.Outcome State Fault Refusal) : Option (Nat × List SegDesc × List GateDesc) :=
  (nextOf o).bind fun s => s.table.map fun t => (t.off, t.segs, t.gates)

/-- The reset state with the command `i` in CMD. -/
def holding (i : Instr) : State := State.reset.holdingCommand (commandWord i)

/-- A walk of the address of program P1 that waits for the entry of level `L` of the table at `0x2000`. -/
def frameAt (L : Level) : WalkFrame :=
  { firstWalkFrame 0x1000 0x0000008080604567 with level := L, tableBase := 0x2000 }

/-- The reset state in that walk. -/
def walkingAt (L : Level) : State := { State.reset with walk := some (frameAt L) }

/-- The RANGE frame of a READ of 16 bytes at the address of program P1. -/
def rangeFrame : RangeFrame :=
  { root := 0x1000, cur := 0x0000008080604567, remaining := 16, out := [], copy := none }

/-- The reset state in that walk inside that READ. -/
def readingAt (L : Level) : State := { walkingAt L with range := some rangeFrame }

/-- The copy of 9 bytes at a physical address that is a multiple of 8. -/
def copyState : CopyState := { pa := 0x600000, chunkLeft := 9, chunk := 9 }

/-- The reset state in a READ that copies them. -/
def copying : State := { State.reset with range := some { rangeFrame with copy := some copyState } }

/-- A TABLE frame at its first slot, with `limit + 1` bytes in its buffer. -/
def tableFrame (kind : TableKind) (limit : BitVec 16) (v : Nat) : TableFrame :=
  { kind := kind, root := 0x1000, base := 0x5000, limit := limit, buf := some (bytesLE v (limit.toNat + 1)), off := 0
    segs := [], gates := [] }

/-- The reset state in that table. -/
def inTable (kind : TableKind) (limit : BitVec 16) (v : Nat) : State :=
  { State.reset with table := some (tableFrame kind limit v) }

/-- A memory image with the 8-byte values `l`. -/
def image (l : List (Nat × Nat)) : Memory :=
  l.foldl (fun m p => m.writeBytes (BitVec.ofNat 64 p.1) (bytesLE p.2 8)) []

/-- The page tables of programs P3 and P4: the first GiB mapped to itself. -/
def identity : Memory := image [(0x1000, 0x2003), (0x2000, 0x83)]

/-! ### WellFormed: an ill-formed term for each check -/

theorem test_illegalCommand_wants_an_illegal_opcode :
    (Instr.illegalCommand 0x01).wf = false ∧ (Instr.illegalCommand 0x09).wf = false ∧
      (Instr.illegalCommand 0x0A).wf = true ∧ (Instr.illegalCommand 0x00).wf = true := by decide

theorem test_entry_rows_of_level_4_want_their_bits :
    (Instr.pteL4P0 0x01).wf = false ∧ (Instr.pteL4P1PS0 0x81).wf = false ∧ (Instr.pteL4P1PS1 0x01).wf = false ∧
      (Instr.pteL4P0 0x80).wf = true := by decide

theorem test_entry_rows_of_level_3_want_their_bits :
    (Instr.pteL3P0PS0 0x80).wf = false ∧ (Instr.pteL3P0PS1 0x00).wf = false ∧ (Instr.pteL3P1PS0 0x81).wf = false ∧
      (Instr.pteL3P1PS1 0x80).wf = false := by decide

theorem test_entry_rows_of_level_2_want_their_bits :
    (Instr.pteL2P0PS0 0x01).wf = false ∧ (Instr.pteL2P0PS1 0x81).wf = false ∧ (Instr.pteL2P1PS0 0x00).wf = false ∧
      (Instr.pteL2P1PS1 0x01).wf = false := by decide

theorem test_entry_rows_of_level_1_want_their_bit :
    (Instr.pteL1P0 0x01).wf = false ∧ (Instr.pteL1P1 0x80).wf = false ∧ (Instr.pteL1P1 0x81).wf = true := by decide

theorem test_segment_rows_want_their_bits :
    (Instr.segdescData 0x0000180000000000).wf = false ∧ (Instr.segdescCode 0x0000100000000000).wf = false ∧
      (Instr.segdescNull 0x0000010000000000).wf = false ∧ (Instr.segdescCallgate 0x0000090000000000).wf = false ∧
      (Instr.segdescTssT9 0x00000B0000000000).wf = false ∧ (Instr.segdescTssTB 0x0000090000000000).wf = false ∧
      (Instr.segdescTssTD 0x00000F0000000000).wf = false := by decide

theorem test_unsupported_rows_want_their_type :
    ([.segdescUnsupportedT1 0, .segdescUnsupportedT2 0, .segdescUnsupportedT3 0, .segdescUnsupportedT4 0,
      .segdescUnsupportedT5 0, .segdescUnsupportedT6 0, .segdescUnsupportedT7 0, .segdescUnsupportedT8 0,
      .segdescUnsupportedTA 0, .segdescUnsupportedTC 0, .segdescUnsupportedTE 0] : List Instr).all
      (fun i => !i.wf) = true := by decide

/-! ### Decode: words written out from 30_encoding.md and from the encodings of 95_test_vectors.md -/

/-- E1. -/
theorem test_decode_bits : decode .command [0x01, 0x5A, 0, 0, 0, 0, 0, 0, 0, 0, 0, 0, 0, 0, 0, 0, 0, 0x02, 0x03] =
    .ok (.bits 0x5A 2 3) := by rfl

/-- E2. -/
theorem test_decode_split : decode .command [0x02, 0x08, 0x10, 0, 0, 0, 0, 0, 0] = .ok (.split 0x1008) := by rfl

/-- Program P1, step 2. -/
theorem test_decode_pteDecode : decode .command [0x03, 0x01, 0x00, 0x40, 0, 0, 0, 0, 0, 0, 0x04, 0x00, 0x63, 0xD0, 0xBC,
    0x0A, 0, 0, 0, 0x80] = .ok (.pteDecode 1 0x4000 4 0x800000000ABCD063) := by rfl

/-- Program P1, step 3. -/
theorem test_decode_resolve : decode .command [0x04, 0x00, 0x10, 0, 0, 0, 0, 0, 0, 0x67, 0x45, 0x60, 0x80, 0x80, 0, 0, 0] =
    .ok (.resolve 0x1000 0x0000008080604567) := by rfl

/-- Program P2, step 1. -/
theorem test_decode_read : decode .command [0x05, 0x00, 0x10, 0, 0, 0, 0, 0, 0, 0xFC, 0xFF, 0x1F, 0, 0, 0, 0, 0, 0x08, 0, 0,
    0, 0, 0, 0, 0] = .ok (.read 0x1000 0x1FFFFC 8) := by rfl

/-- Program P3, step 2. -/
theorem test_decode_segCreate : decode .command [0x06, 0x10, 0x67, 0x00, 0x80, 0x67, 0x45, 0x89, 0x00, 0x23, 0x01, 0, 0, 0, 0,
    0, 0, 0] = .ok (.segCreate 16 0x00000000000000012300894567800067) := by rfl

/-- Program P4, step 2. -/
theorem test_decode_gateDecode : decode .command [0x07, 0x30, 0x20, 0x08, 0x00, 0x01, 0x8E, 0x10, 0x80, 0xFF, 0xFF, 0xFF, 0xFF,
    0, 0, 0, 0] = .ok (.gateDecode 0x00000000FFFFFFFF80108E0100082030) := by rfl

/-- Program P3, step 1. -/
theorem test_decode_gdt : decode .command [0x08, 0x00, 0x10, 0, 0, 0, 0, 0, 0, 0x00, 0x50, 0, 0, 0, 0, 0, 0, 0x27, 0x00] =
    .ok (.gdt 0x1000 0x5000 0x27) := by rfl

/-- Program P4, step 1. -/
theorem test_decode_idt : decode .command [0x09, 0x00, 0x10, 0, 0, 0, 0, 0, 0, 0x00, 0x60, 0, 0, 0, 0, 0, 0, 0x1F, 0x00] =
    .ok (.idt 0x1000 0x6000 0x1F) := by rfl

/-- C-1, C-2, C-3. -/
theorem test_decode_illegalCommand : decode .command [0x00] = .ok (.illegalCommand 0x00) ∧
    decode .command [0x0A] = .ok (.illegalCommand 0x0A) ∧ decode .command [0xFF, 0x01] = .ok (.illegalCommand 0xFF) :=
  ⟨rfl, rfl, rfl⟩

theorem test_decode_names_what_is_missing : decode .command [] = .error .noOpcode ∧
    decode .command [0x02, 0x08] = .error (.truncatedCommand 0x02) ∧
    decode (.entry .l4) [0x03] = .error .truncatedEntry ∧ decode .segment [0x03] = .error .truncatedSegment ∧
    decode .gate [0x03, 0, 0, 0, 0, 0, 0, 0] = .error .truncatedGate := ⟨rfl, rfl, rfl, rfl, rfl⟩

/-- R319, level 4. The second and third words are those of T-1 and T-2. -/
theorem test_decode_entries_of_level_4 :
    decode (.entry .l4) [0x80, 0, 0, 0, 0, 0, 0, 0] = .ok (.pteL4P0 0x80) ∧
    decode (.entry .l4) [0x03, 0x20, 0, 0, 0, 0, 0, 0] = .ok (.pteL4P1PS0 0x2003) ∧
    decode (.entry .l4) [0x83, 0x20, 0, 0, 0, 0, 0, 0] = .ok (.pteL4P1PS1 0x2083) := ⟨rfl, rfl, rfl⟩

/-- R319, level 3. The last word is that of T-4. -/
theorem test_decode_entries_of_level_3 :
    decode (.entry .l3) [0x02, 0x20, 0, 0, 0, 0, 0, 0] = .ok (.pteL3P0PS0 0x2002) ∧
    decode (.entry .l3) [0x80, 0, 0, 0, 0, 0, 0, 0] = .ok (.pteL3P0PS1 0x80) ∧
    decode (.entry .l3) [0x07, 0x30, 0, 0, 0, 0, 0, 0] = .ok (.pteL3P1PS0 0x3007) ∧
    decode (.entry .l3) [0x83, 0, 0, 0x40, 0, 0, 0, 0] = .ok (.pteL3P1PS1 0x40000083) := ⟨rfl, rfl, rfl, rfl⟩

/-- R319, level 2. The last two words are those of T-11 and T-8. -/
theorem test_decode_entries_of_level_2 :
    decode (.entry .l2) [0, 0, 0, 0, 0, 0, 0, 0x80] = .ok (.pteL2P0PS0 0x8000000000000000) ∧
    decode (.entry .l2) [0x80, 0, 0x20, 0, 0, 0, 0, 0] = .ok (.pteL2P0PS1 0x200080) ∧
    decode (.entry .l2) [0x07, 0x30, 0, 0, 0, 0, 0, 0] = .ok (.pteL2P1PS0 0x3007) ∧
    decode (.entry .l2) [0xE3, 0, 0x20, 0, 0, 0, 0, 0] = .ok (.pteL2P1PS1 0x2000E3) := ⟨rfl, rfl, rfl, rfl⟩

/-- R319, level 1: bit 7 is PAT and selects nothing. The second word is that of T-13. -/
theorem test_decode_entries_of_level_1 :
    decode (.entry .l1) [0x80, 0, 0, 0, 0, 0, 0, 0] = .ok (.pteL1P0 0x80) ∧
    decode (.entry .l1) [0x63, 0xD0, 0xBC, 0x0A, 0, 0, 0, 0x80] = .ok (.pteL1P1 0x800000000ABCD063) ∧
    decode (.entry .l1) [0xE7, 0x01, 0, 0, 0, 0x01, 0, 0] = .ok (.pteL1P1 0x00000100000001E7) := ⟨rfl, rfl, rfl⟩

/-- R323, lines 1 to 4, with the words of S-3, S-2, S-15 and S-7. -/
theorem test_decode_segments_of_one_row :
    decode .segment [0xFF, 0xFF, 0, 0, 0, 0xF2, 0xCF, 0] = .ok (.segdescData 0x00CFF2000000FFFF) ∧
    decode .segment [0xFF, 0xFF, 0, 0, 0, 0x9A, 0xAF, 0] = .ok (.segdescCode 0x00AF9A000000FFFF) ∧
    decode .segment [0xFF, 0xFF, 0xFF, 0xFF, 0xFF, 0xE0, 0xFF, 0xFF] = .ok (.segdescNull 0xFFFFE0FFFFFFFFFF) ∧
    decode .segment [0x78, 0x56, 0x34, 0x12, 0, 0xEF, 0, 0] = .ok (.segdescCallgate 0x0000EF0012345678) :=
  ⟨rfl, rfl, rfl, rfl⟩

/-- R323, line 5, with the words of S-4, S-5 and S-6. -/
theorem test_decode_segments_tss :
    decode .segment [0x67, 0x00, 0x80, 0x67, 0x45, 0x89, 0x00, 0x23] = .ok (.segdescTssT9 0x2300894567800067) ∧
    decode .segment [0x67, 0, 0, 0, 0, 0x8B, 0, 0] = .ok (.segdescTssTB 0x00008B0000000067) ∧
    decode .segment [0, 0, 0, 0, 0, 0x8D, 0, 0] = .ok (.segdescTssTD 0x00008D0000000000) := ⟨rfl, rfl, rfl⟩

/-- R323, line 6, types 1 to 6: the type nibble is the low half of byte 5, S is its bit 4. -/
theorem test_decode_segments_unsupported_low :
    decode .segment [0, 0, 0, 0, 0, 0x81, 0, 0] = .ok (.segdescUnsupportedT1 0x0000810000000000) ∧
    decode .segment [0, 0, 0, 0, 0, 0x82, 0, 0] = .ok (.segdescUnsupportedT2 0x0000820000000000) ∧
    decode .segment [0, 0, 0, 0, 0, 0x83, 0, 0] = .ok (.segdescUnsupportedT3 0x0000830000000000) ∧
    decode .segment [0, 0, 0, 0, 0, 0x04, 0, 0] = .ok (.segdescUnsupportedT4 0x0000040000000000) ∧
    decode .segment [0, 0, 0, 0, 0, 0x65, 0, 0] = .ok (.segdescUnsupportedT5 0x0000650000000000) ∧
    decode .segment [0, 0, 0, 0, 0, 0xE6, 0, 0] = .ok (.segdescUnsupportedT6 0x0000E60000000000) :=
  ⟨rfl, rfl, rfl, rfl, rfl, rfl⟩

/-- R323, line 6, the other types. -/
theorem test_decode_segments_unsupported_high :
    decode .segment [0, 0, 0, 0, 0, 0x87, 0, 0] = .ok (.segdescUnsupportedT7 0x0000870000000000) ∧
    decode .segment [0, 0, 0, 0, 0, 0x88, 0, 0] = .ok (.segdescUnsupportedT8 0x0000880000000000) ∧
    decode .segment [0, 0, 0, 0, 0, 0x8A, 0, 0] = .ok (.segdescUnsupportedTA 0x00008A0000000000) ∧
    decode .segment [0, 0, 0, 0, 0, 0x8C, 0, 0] = .ok (.segdescUnsupportedTC 0x00008C0000000000) ∧
    decode .segment [0, 0, 0, 0, 0, 0x8E, 0, 0] = .ok (.segdescUnsupportedTE 0x00008E0000000000) :=
  ⟨rfl, rfl, rfl, rfl, rfl⟩

/-- R325, with the bytes of gate 0 of program P4. -/
theorem test_decode_gatedesc :
    decode .gate [0x30, 0x20, 0x08, 0x00, 0x01, 0x8E, 0x10, 0x80, 0xFF, 0xFF, 0xFF, 0xFF, 0, 0, 0, 0] =
      .ok (.gatedesc 0x00000000FFFFFFFF80108E0100082030) := by rfl

/-- Rows of spec/opcode_table.json by their bits alone: a command, a GDT slot, an IDT slot. -/
theorem test_decodeTableWord : decodeTableWord 8 0x04 = some (.resolve 0 0) ∧
    decodeTableWord 48 0x00000B0000000000 = some (.segdescTssTB 0x00000B0000000000) ∧
    decodeTableWord 128 0 = some (.gatedesc 0) := ⟨rfl, rfl, rfl⟩

/-! ### Assembler (R304, R305) -/

theorem test_assemble_pte_decode :
    assembleText "PTE.DECODE  PT, 0x4000, 4, 0x800000000ABCD063 ; program P1".toList =
      some (commandWord (.pteDecode 1 0x4000 4 0x800000000ABCD063)) := by rfl

theorem test_assemble_pseudo :
    (parseLine "READQ 0x1000, 0x6000".toList).bind assemble = some (.read 0x1000 0x6000 8) ∧
    (parseLine "SEG.CREATEO 0x2300894567800067, 0x1".toList).bind assemble =
      some (.segCreate 16 0x12300894567800067) ∧
    (parseLine "SEG.CREATE [0x10, 255]".toList).bind assemble = some (.segCreate 2 0xFF10) := ⟨rfl, rfl, rfl⟩

/-! ### Construction and one step of each instruction -/

theorem test_step_split : rspOf (step (holding (.split 0x1008))) =
    some (okay (.split ⟨⟨0, 0, 0, 1, 8⟩, ⟨0, 0, 0, 0x1008⟩, ⟨0, 0, 0x1008⟩⟩)) := by rfl

/-- B-1 (E1) and B-6. -/
theorem test_step_bits : rspOf (step (holding (.bits 0x5A 2 3))) = some (okay (.bits 6)) ∧
    rspOf (step (holding (.bits 0x123456789ABCDEF00FEDCBA987654321 120 16))) = some (okay (.bits 0x12)) := ⟨rfl, rfl⟩

/-- T-6: bit 12 of a 1 GiB leaf is PAT, not reserved. -/
theorem test_step_pteDecode : (entryOf (step (holding (.pteDecode 3 0x9000 7 0x40001183)))).map
    (fun e => (e.pat, e.frameRef, e.reserved)) = some (some true, 1, 0) := by rfl

/-- C-4 and C-5. -/
theorem test_step_pteDecode_illegal :
    rspOf (step (holding (.pteDecode 5 0 0 0))) = some (failed 9 (.illegalOperand 3)) ∧
    rspOf (step (holding (.pteDecode 1 0 0x200 0))) = some (failed 9 (.illegalOperand 3)) := ⟨rfl, rfl⟩

/-- W-5, and the start of W-1. -/
theorem test_step_resolve :
    rspOf (step (holding (.resolve 0x1000 0x0000800000000000))) =
      some (failed 1 (.addressWidthViolation 0x0000800000000000)) ∧
    walkOf (step (holding (.resolve 0x1000 0x0000008080604567))) = some (.l4, 0x1000) := ⟨rfl, rfl⟩

/-- R-4, and the start of R-1. -/
theorem test_step_read :
    rspOf (step (holding (.read 0x1000 0x0000800000000000 0))) = some (okay (.bytes [])) ∧
    walkOf (step (holding (.read 0x1000 0x1FFFFC 8))) = some (.l4, 0x1000) := ⟨rfl, rfl⟩

/-- S-19. -/
theorem test_step_segCreate : rspOf (step (holding (.segCreate 16 0x0000000089ABCDEFFF4F89ABCDEF1234))) =
    some (okay (.segment (.tss 0x0000000089ABCDEFFF4F89ABCDEF1234
      ⟨0xFFABCDEF, 0xF1234, 9, false, true, false, 0⟩ 0x89ABCDEF 0x89ABCDEFFFABCDEF))) := by rfl

/-- S-9 and S-8: an unsupported type is found before the missing bytes, the missing bytes of a TSS after its type. -/
theorem test_step_segCreate_order :
    rspOf (step (holding (.segCreate 8 0x0000820000000000))) = some (failed 3 (.unsupportedDescriptor 2 0)) ∧
    rspOf (step (holding (.segCreate 8 0x2300894567800067))) = some (failed 5 (.insufficientBytes 8 16)) := ⟨rfl, rfl⟩

/-- G-3. -/
theorem test_step_gateDecode : rspOf (step (holding (.gateDecode 0x00000000123456780000EF0F0010FFFF))) =
    some (okay (.gate ⟨0x123456780000FFFF, 0x0010, 15, 0xF, 3, true, 0x00000000123456780000EF0F0010FFFF⟩)) := by rfl

/-- D-8, and the number of bytes of D-10. -/
theorem test_step_gdt :
    rspOf (step (holding (.gdt 0x1000 0x0000800000000000 7))) =
      some (failed 1 (.addressWidthViolation 0x0000800000000000)) ∧
    ((nextOf (step (holding (.gdt 0x1000 0x10000 0xFFFF)))).bind State.range).map RangeFrame.remaining = some 65536 :=
  ⟨rfl, rfl⟩

/-- The start of D-11. -/
theorem test_step_idt : ((nextOf (step (holding (.idt 0x1000 0x6000 0x1F)))).bind State.range).map RangeFrame.remaining =
    some 32 := by rfl

/-- C-2. -/
theorem test_step_illegalCommand :
    rspOf (step (holding (.illegalCommand 0x0A))) = some (failed 8 (.illegalCommand 0x0A)) := by rfl

/-- R319: the not-present rows stop the walk unmapped, one entry longer. -/
theorem test_rows_not_present :
    [exec (.pteL4P0 0) (walkingAt .l4), exec (.pteL3P0PS0 0) (walkingAt .l3), exec (.pteL3P0PS1 0x80) (walkingAt .l3),
      exec (.pteL2P0PS0 0) (walkingAt .l2), exec (.pteL2P0PS1 0x80) (walkingAt .l2),
      exec (.pteL1P0 0) (walkingAt .l1)].map translationOf = List.replicate 6 (some (none, none, none, 1)) := by rfl

/-- R319, R438: the table rows go down one level, a faulty PML4 entry too (W-4). -/
theorem test_rows_descend :
    [exec (.pteL4P1PS0 0x3007) (walkingAt .l4), exec (.pteL4P1PS1 0x2083) (walkingAt .l4),
      exec (.pteL3P1PS0 0x3007) (walkingAt .l3), exec (.pteL2P1PS0 0x4003) (walkingAt .l2)].map walkOf =
      [some (.l3, 0x3000), some (.l3, 0x2000), some (.l2, 0x3000), some (.l1, 0x4000)] := by rfl

/-- R432: the leaf rows stop the walk mapped; 1 GiB as in W-3, 2 MiB as in T-8, 4 KiB as in W-1. -/
theorem test_rows_map :
    [exec (.pteL3P1PS1 0x80000083) (walkingAt .l3), exec (.pteL2P1PS1 0x2000E3) (walkingAt .l2),
      exec (.pteL1P1 0x800000000ABCD063) (walkingAt .l1)].map translationOf =
      [some (some 0x80000000, some 0x40000000, some 0x604567, 1), some (some 0x200000, some 0x200000, some 0x4567, 1),
       some (some 0xABCD000, some 0x1000, some 0x567, 1)] := by rfl

/-- R571: an 8-byte slot moves the cursor by 8 (program P3: NULL, CODE, DATA). -/
theorem test_rows_short_slots :
    [exec (.segdescNull 0) (inTable .gdt 7 0), exec (.segdescCode 0x00AF9A000000FFFF) (inTable .gdt 7 0),
      exec (.segdescData 0x00CFF2000000FFFF) (inTable .gdt 7 0)].map slotsOf =
      [some (8, [.null 0 ⟨0, 0, 0, false, false, false, 0⟩], []),
       some (8, [.code 0x00AF9A000000FFFF ⟨0, 0xFFFFF, 0xA, true, true, true, 0⟩ false true true], []),
       some (8, [.data 0x00CFF2000000FFFF ⟨0, 0xFFFFF, 2, true, true, false, 3⟩ false true false], [])] := by rfl

/-- R571, E8: a 16-byte slot moves the cursor by 16 (the TSS of program P3, S-5, S-6, S-7). -/
theorem test_rows_long_slots :
    [exec (.segdescTssT9 0x2300894567800067) (inTable .gdt 15 0x12300894567800067),
      exec (.segdescTssTB 0x00008B0000000067) (inTable .gdt 15 0xFFFFFFFF00008B0000000067),
      exec (.segdescTssTD 0x00008D0000000000) (inTable .gdt 15 0x00008D0000000000),
      exec (.segdescCallgate 0x0000EF0012345678) (inTable .gdt 15 0xCAFEBABE000000000000EF0012345678)].map slotsOf =
      [some (16, [.tss 0x12300894567800067 ⟨0x23456780, 0x67, 9, false, true, false, 0⟩ 1 0x123456780], []),
       some (16, [.tss 0xFFFFFFFF00008B0000000067 ⟨0, 0x67, 0xB, false, true, false, 0⟩ 0xFFFFFFFF 0xFFFFFFFF00000000], []),
       some (16, [.tss 0x00008D0000000000 ⟨0, 0, 0xD, false, true, false, 0⟩ 0 0], []),
       some (16, [.callgate 0xCAFEBABE000000000000EF0012345678 ⟨0x1234, 0x5678, 0xF, false, true, false, 3⟩], [])] := by
  rfl

/-- D-2: a 16-byte descriptor in the last 8 bytes of the table. -/
theorem test_rows_truncated : [exec (.segdescTssT9 0x2300894567800067) (inTable .gdt 14 0),
    exec (.segdescCallgate 0x0000EF0012345678) (inTable .gdt 7 0)].map rspOf =
      List.replicate 2 (some (failed 6 (.truncatedDescriptor 0))) := by rfl

/-- R324: each unsupported type raises its own nibble. -/
theorem test_rows_unsupported :
    [exec (.segdescUnsupportedT1 0x0000810000000000) (inTable .gdt 7 0),
      exec (.segdescUnsupportedT2 0x0000820000000000) (inTable .gdt 7 0),
      exec (.segdescUnsupportedT3 0x0000830000000000) (inTable .gdt 7 0),
      exec (.segdescUnsupportedT4 0x0000840000000000) (inTable .gdt 7 0),
      exec (.segdescUnsupportedT5 0x0000850000000000) (inTable .gdt 7 0),
      exec (.segdescUnsupportedT6 0x0000860000000000) (inTable .gdt 7 0),
      exec (.segdescUnsupportedT7 0x0000870000000000) (inTable .gdt 7 0),
      exec (.segdescUnsupportedT8 0x0000880000000000) (inTable .gdt 7 0),
      exec (.segdescUnsupportedTA 0x00008A0000000000) (inTable .gdt 7 0),
      exec (.segdescUnsupportedTC 0x00008C0000000000) (inTable .gdt 7 0),
      exec (.segdescUnsupportedTE 0x00008E0000000000) (inTable .gdt 7 0)].map rspOf =
      [1, 2, 3, 4, 5, 6, 7, 8, 0xA, 0xC, 0xE].map fun t => some (failed 3 (.unsupportedDescriptor t 0)) := by rfl

/-- G-1. -/
theorem test_rows_gate : slotsOf (exec (.gatedesc 0x00000000FFFFFFFF80108E0100082030) (inTable .idt 15 0)) =
    some (16, [], [⟨0xFFFFFFFF80102030, 0x0008, 1, 0xE, 0, true, 0x00000000FFFFFFFF80108E0100082030⟩]) := by rfl

/-- W-6: a failed entry read. -/
theorem test_walk_read_fails : rspOf (step { walkingAt .l4 with inaccessible := [0x2008] }) =
    some (failed 2 (.hostReadFailure 0x2008)) := by rfl

/-- R502: an aligned address with 8 bytes or more left is read 8 bytes at once; program P2's bytes. -/
theorem test_data_read : ((nextOf (step { copying with mem := image [(0x600000, 0x8877665544332211)] })).bind State.range).map
    (fun r => (r.out, r.copy.map CopyState.chunkLeft)) =
      some ([0x11, 0x22, 0x33, 0x44, 0x55, 0x66, 0x77, 0x88], some 1) := by rfl

/-- R712: an abort set after an answered entry read, another read to follow (W-11). -/
theorem test_abort : rspOf (exec (.pteL4P1PS0 0x3007) { walkingAt .l4 with aborts := [true] }) = some (failed 7 .aborted) := by
  rfl

/-- `step` runs what `withFetchWord` placed. -/
theorem test_withFetchWord : rspOf (step (State.reset.withFetchWord 8 0x0A)) = some (failed 8 (.illegalCommand 0x0A)) ∧
    rspOf (step (State.reset.withFetchWord 48 0x0000020000000000)) = some (failed 3 (.unsupportedDescriptor 2 0)) :=
  ⟨rfl, rfl⟩

/-! ### Witnesses: the hypotheses of each statement, met together; one for each clause, at a boundary of its range -/

/-- The configuration of the reset state is legal, and so is that of every state that keeps it. -/
theorem configLegal_of_reset (s : State) (ha : s.cfgArch = 1) (hv : s.cfgVaBits = 48) (hm : s.cfgM = 40) : ConfigLegal s where
  arch := ha
  vaBits := hv
  minM := by rw [State.m, hm]; decide
  maxM := by rw [State.m, hm]; decide

theorem configLegal_reset : ConfigLegal State.reset := configLegal_of_reset _ rfl rfl rfl

/-- A held command. -/
theorem holds_of_word (s : State) (i : Instr) (hp : s.phase = .idle) (hw : s.cmd = some (commandWord i))
    (hd : decodeCommand (commandWord i) = i) : Holds s i := ⟨hp, _, hw, hd⟩

theorem witness_ConstructionLeavesAnIdleBlock : (32 ≤ 32 ∧ 32 ≤ 52 ∧ (nextOf (State.construct 1 32)).isSome = true) ∧
    (32 ≤ 52 ∧ 52 ≤ 52 ∧ (nextOf (State.construct 1 52)).isSome = true) := by decide

theorem witness_ConstructionRejectsOtherConfigurations : (0 : BitVec 8) ≠ 1 ∧ (2 : BitVec 8) ≠ 1 ∧
    (31 < 32 ∨ 52 < 31) ∧ (53 < 32 ∨ 52 < 53) := by decide

theorem witness_CallerWritesAndReadsTheBlock :
    (State.reset.phase = .idle ∧ State.reset.cmd = none ∧ State.reset.rsp = none ∧ State.reset.commands = []) ∧
    (walkingAt .l4).phase ≠ .idle ∧ (answered State.reset (okay (.bytes []))).rsp = some (okay (.bytes [])) ∧
    ({ State.reset with commands := [0x0A] }.phase = .idle ∧ { State.reset with commands := [0x0A] }.cmd = none ∧
      { State.reset with commands := [0x0A] }.commands = [0x0A]) := by decide

theorem witness_DecodeEncodeRoundTrip : (Instr.illegalCommand 0xFF).wf = true ∧ (Instr.pteL4P0 0x80).wf = true ∧
    (Instr.segdescTssTB 0x00008B0000000067).wf = true ∧ (Instr.gatedesc 0).wf = true := by decide

theorem witness_DecodedBytesAreTheEncoding : decode .command [0x0A, 0xFF] = .ok (.illegalCommand 0x0A) ∧
    decode .segment [0, 0, 0, 0, 0, 0, 0, 0] = .ok (.segdescNull 0) := ⟨rfl, rfl⟩

theorem witness_PseudoInstructionsExpand : 2 ^ 64 - 1 < 2 ^ 64 ∧ 0 < 2 ^ 64 := by decide

theorem witness_StepRunsTheDecodedCommand : (holding (.split 0x1008)).phase = .idle ∧
    (holding (.split 0x1008)).cmd = some (commandWord (.split 0x1008)) ∧
    decode .command (bytesLE (commandWord (.split 0x1008)).toNat 25) = .ok (.split 0x1008) := ⟨rfl, rfl, rfl⟩

theorem witness_StepRunsTheDecodedEntry : (walkingAt .l4).walk = some (frameAt .l4) ∧
    readerAnswer (walkingAt .l4) (entryAddress (frameAt .l4).tableBase (levelIndex (frameAt .l4).split (frameAt .l4).level))
      .b8 = (.value 0, []) ∧
    decode (.entry (frameAt .l4).level) (bytesLE (0 : Word).toNat 8) = .ok (.pteL4P0 0) := ⟨rfl, rfl, rfl⟩

/-- Both kinds, with exactly one slot left. -/
theorem witness_StepRunsTheDecodedSlot :
    ((inTable .gdt 7 0).walk = none ∧ (inTable .gdt 7 0).range = none ∧ (inTable .gdt 7 0).table = some (tableFrame .gdt 7 0) ∧
      (tableFrame .gdt 7 0).buf = some (bytesLE 0 8) ∧ (bytesLE 0 8).length = (tableFrame .gdt 7 0).bytes ∧
      (tableFrame .gdt 7 0).kind = .gdt ∧ (tableFrame .gdt 7 0).off + 8 = (tableFrame .gdt 7 0).bytes ∧
      decode .segment ((bytesLE 0 8).drop 0) = .ok (.segdescNull 0)) ∧
    ((inTable .idt 15 0).walk = none ∧ (inTable .idt 15 0).range = none ∧
      (inTable .idt 15 0).table = some (tableFrame .idt 15 0) ∧
      (tableFrame .idt 15 0).buf = some (bytesLE 0 16) ∧ (bytesLE 0 16).length = (tableFrame .idt 15 0).bytes ∧
      (tableFrame .idt 15 0).kind = .idt ∧ (tableFrame .idt 15 0).off + 16 = (tableFrame .idt 15 0).bytes ∧
      decode .gate ((bytesLE 0 16).drop 0) = .ok (.gatedesc 0)) :=
  ⟨⟨rfl, rfl, rfl, rfl, rfl, rfl, rfl, rfl⟩, ⟨rfl, rfl, rfl, rfl, rfl, rfl, rfl, rfl⟩⟩

/-- The one hypothesis of BITS, SPLIT and GATE.DECODE. -/
theorem witness_BitsExtractsTheField : (holding (.bits 0x5A 2 3)).phase = .idle := rfl

theorem witness_SplitAnswersTheThreeViews : (holding (.split 0x1008)).phase = .idle := rfl

theorem witness_GateDecodeAnswersTheGate : (holding (.gateDecode 0)).phase = .idle := rfl

/-- The first and the last opcode of the upper range, and 0x00 with other bytes behind it. -/
theorem witness_IllegalCommandEndsAtOnce : (State.reset.holdingCommand 0x0A).phase = .idle ∧
    (State.reset.holdingCommand 0x0A).cmd = some 0x0A ∧ 0x0A ≤ (0x0A : CommandWord).toNat % 256 ∧
    (State.reset.holdingCommand 0x100).cmd = some 0x100 ∧ (0x100 : CommandWord).toNat % 256 = 0 ∧
    (State.reset.holdingCommand 0xFF).cmd = some 0xFF ∧ 0x0A ≤ (0xFF : CommandWord).toNat % 256 := by decide

/-- The two ends of the range of M. -/
theorem witness_EntryFrameIsAlignedBelowM : (32 ≤ 32 ∧ 32 ≤ 52) ∧ (32 ≤ 52 ∧ 52 ≤ 52) := by decide

theorem witness_EntryReservedBitsFollowTheMasks : (32 ≤ 32 ∧ 32 ≤ 52) ∧ (32 ≤ 52 ∧ 52 ≤ 52) := by decide

theorem witness_PteDecodeAnswersTheEntry : State.reset.phase = .idle ∧ ConfigLegal State.reset ∧
    ((1 : BitVec 8).toNat = Level.l1.toNat ∧ (511 : BitVec 16).toNat < 512) ∧
    ((0 : BitVec 8).toNat = 0 ∧ 4 < (5 : BitVec 8).toNat ∧ 512 ≤ (512 : BitVec 16).toNat) :=
  ⟨rfl, configLegal_reset, by decide, by decide⟩

/-- A table at level 4 and a leaf at levels 3 and 1, with the greatest frame reference. -/
theorem witness_EntryRoundTrip : (32 ≤ 40 ∧ 40 ≤ 52) ∧ (Level.l4 = .l4 → Form.table = .table) ∧
    (Level.l1 = .l1 → Form.leaf = .leaf) ∧ (Level.l3 = .l4 → Form.leaf = .table) ∧ (Level.l3 = .l1 → Form.leaf = .leaf) ∧
    (⟨true, false, false, false, false, false, false, true, true, true, 1023⟩ : EntryFields).frameRef <
      2 ^ (40 - frameShift .l3 .leaf) := by decide

/-- The last lower-half and the first upper-half address are accepted, their neighbours in the hole are not. -/
theorem witness_ResolveChecksTheAddressWidth : State.reset.phase = .idle ∧ State.reset.cfgVaBits = 48 ∧
    ((0x00007FFFFFFFFFFF : Word).toNat / 2 ^ 47 = 0 ∧ (0xFFFF800000000000 : Word).toNat / 2 ^ 47 = 0x1FFFF) ∧
    ¬ ((0x0000800000000000 : Word).toNat / 2 ^ 47 = 0 ∨ (0x0000800000000000 : Word).toNat / 2 ^ 47 = 0x1FFFF) ∧
    ¬ ((0xFFFF7FFFFFFFFFFF : Word).toNat / 2 ^ 47 = 0 ∨ (0xFFFF7FFFFFFFFFFF : Word).toNat / 2 ^ 47 = 0x1FFFF) := by
  decide

/-- One for each level. -/
theorem witness_NotPresentRowsEndResolveUnmapped : ∀ L : Level, (walkingAt L).walk = some (frameAt L) ∧
    (walkingAt L).range = none ∧ (frameAt L).level = L := fun _ => ⟨rfl, rfl, rfl⟩

/-- One for each level. -/
theorem witness_NotPresentRowsFailARead : ∀ L : Level, (readingAt L).walk = some (frameAt L) ∧
    (readingAt L).range = some rangeFrame ∧ (frameAt L).level = L := fun _ => ⟨rfl, rfl, rfl⟩

/-- One for each of the three levels, with the words of T-4, T-8 and T-13. -/
theorem witness_LeafRowsEndResolveMapped :
    (∀ L : Level, (walkingAt L).walk = some (frameAt L) ∧ (walkingAt L).range = none ∧ ConfigLegal (walkingAt L) ∧
      (frameAt L).level = L) ∧
    (Instr.pteL3P1PS1 0x40000083).wf = true ∧ (Instr.pteL2P1PS1 0x2000E3).wf = true ∧
    (Instr.pteL1P1 0x800000000ABCD063).wf = true :=
  ⟨fun _ => ⟨rfl, rfl, configLegal_of_reset _ rfl rfl rfl, rfl⟩, rfl, rfl, rfl⟩

/-- One for each of the three levels and each state of the abort input. -/
theorem witness_LeafRowsStartAChunk : ∀ L : Level, (readingAt L).walk = some (frameAt L) ∧
    (readingAt L).range = some rangeFrame ∧ (frameAt L).level = L ∧ (readingAt L).aborts = [] ∧
    { readingAt L with aborts := [false] }.walk = some (frameAt L) ∧ { readingAt L with aborts := [false] }.aborts = [false] ∧
    { readingAt L with aborts := [true] }.walk = some (frameAt L) ∧ { readingAt L with aborts := [true] }.aborts = [true] :=
  fun _ => ⟨rfl, rfl, rfl, rfl, rfl, rfl, rfl, rfl⟩

/-- One for each level and each state of the abort input. -/
theorem witness_TableRowsDescend : (∀ L : Level, (walkingAt L).walk = some (frameAt L) ∧ ConfigLegal (walkingAt L) ∧
      (frameAt L).level = L ∧ (walkingAt L).aborts = [] ∧ { walkingAt L with aborts := [false] }.aborts = [false] ∧
      { walkingAt L with aborts := [true] }.aborts = [true]) ∧
    (Instr.pteL4P1PS0 0x2003).wf = true ∧ (Instr.pteL4P1PS1 0x2083).wf = true ∧ (Instr.pteL3P1PS0 0x3007).wf = true ∧
    (Instr.pteL2P1PS0 0x3007).wf = true :=
  ⟨fun _ => ⟨rfl, configLegal_of_reset _ rfl rfl rfl, rfl, rfl, rfl, rfl⟩, rfl, rfl, rfl, rfl⟩

theorem witness_EntryRowsCarryOutTheWalkLoop : (readingAt .l2).walk = some (frameAt .l2) := rfl

/-- The command of W-3 over its image. -/
theorem witness_ResolveCarriesOutItsProcedure :
    let s := { holding (.resolve 0x1000 0x7ABCDEF0) with mem := image [(0x1000, 0x2003), (0x2008, 0x80000083)] }
    Holds s (.resolve 0x1000 0x7ABCDEF0) ∧ Undisturbed s := ⟨holds_of_word _ _ rfl rfl rfl, rfl, rfl⟩

/-- Nothing to read; the first address of the hole; the last address before it. -/
theorem witness_ReadStartsWithTheFirstPage : State.reset.phase = .idle ∧ (0 : Word) = 0 ∧
    ((1 : Word) ≠ 0 ∧ State.reset.acceptsVa 0x0000800000000000 = false) ∧
    ((1 : Word) ≠ 0 ∧ State.reset.acceptsVa 0x00007FFFFFFFFFFF = true) := by decide

/-- A state that copies the last `left` bytes of a chunk, `more` bytes of the request behind it. -/
def copyingLast (left more : Word) (cur : Word) (table : Option TableFrame) : State :=
  { State.reset with
    range := some { rangeFrame with cur := cur, remaining := left + more
                                    copy := some { pa := 0x600000, chunkLeft := left, chunk := left } }
    table := table }

/-- An 8-byte read with one byte more to come, and a 1-byte read with six to come. -/
theorem witness_DataReadAddsItsBytes :
    (copying.walk = none ∧ copying.range = some { rangeFrame with copy := some copyState } ∧ copyState.chunkLeft ≠ 0 ∧
      copyState.pa.toNat % 8 = 0 ∧ 8 ≤ copyState.chunkLeft.toNat ∧ ReadSize.b8.bytes < copyState.chunkLeft.toNat ∧
      readerAnswer copying copyState.pa .b8 = (.value 0, []) ∧ copying.aborts = []) ∧
    ((copyingLast 7 0 0x5000 none).walk = none ∧ (7 : Word) ≠ 0 ∧ ¬ 8 ≤ (7 : Word).toNat ∧
      ReadSize.b1.bytes < (7 : Word).toNat ∧ readerAnswer (copyingLast 7 0 0x5000 none) 0x600000 .b1 = (.value 0, [])) := by
  decide +kernel

/-- The last read of a chunk, of 8 bytes and of 1: at the end of a READ, at the end of a table's READ, before a page in the
hole and before a page that is accepted. -/
theorem witness_DataReadAddsItsBytes_last : ∀ eight : Bool,
    let left : Word := if eight then 8 else 1
    (let n : ReadSize := if (0x600000 : Word).toNat % 8 = 0 ∧ 8 ≤ left.toNat then .b8 else .b1
     left ≠ 0 ∧ left.toNat = n.bytes ∧
       readerAnswer (copyingLast left 0 0x5000 none) 0x600000 n = (.value 0, [])) ∧
    (left + 0 - left = 0 ∧ (copyingLast left 0 0x5000 none).table = none ∧ (copyingLast left 0 0x5000 none).aborts = []) ∧
    (let t := { tableFrame .gdt 0 0 with buf := none }
     (copyingLast left 0 0x5000 (some t)).table = some t) ∧
    (left + 1 - left ≠ 0 ∧
      (copyingLast left 1 (0x0000800000000000 - left) none).acceptsVa (0x0000800000000000 - left + left) = false) ∧
    (left + 1 - left ≠ 0 ∧ (copyingLast left 1 0x5000 none).acceptsVa (0x5000 + left) = true) := by decide +kernel

/-- A chunk that ends at the end of the address space; the state that copies 9 bytes, with a scripted answer and an abort
input that is not set. -/
theorem witness_ChunkIsReadHeadBodyTail :
    (0xFFFFFFFFFFFFFFF3 : Word).toNat + (13 : Word).toNat ≤ 2 ^ 64 ∧
    (let s := { copying with answers := [.value 5], aborts := [false] }
     s.walk = none ∧ s.range = some { rangeFrame with copy := some copyState } ∧
       copyState.pa.toNat + copyState.chunkLeft.toNat ≤ 2 ^ 64 ∧ s.inaccessible = [] ∧
       (∀ x ∈ s.answers, ∃ v, x = .value v) ∧ true ∉ s.aborts) := by
  refine ⟨by decide, rfl, rfl, by decide, rfl, fun x hx => ⟨5, ?_⟩, by decide⟩
  exact List.mem_singleton.mp hx

/-- Whether something translates. -/
def translates : Except ErrInfo Word → Bool
  | .ok _ => true
  | .error _ => false

theorem exists_of_translates {x : Except ErrInfo Word} (h : translates x = true) : ∃ pa, x = .ok pa := by
  cases x with
  | ok pa => exact ⟨pa, rfl⟩
  | error e => cases h

/-- Two bytes of the identity map of program P3. -/
theorem witness_ReadReturnsTheTranslatedBytes :
    let s := { holding (.read 0x1000 0x5008 2) with mem := identity }
    ConfigLegal s ∧ Holds s (.read 0x1000 0x5008 2) ∧ Undisturbed s ∧ s.inaccessible = [] ∧
      AllTranslate s 0x1000 0x5008 (2 : Word).toNat := by
  refine ⟨configLegal_of_reset _ rfl rfl rfl, holds_of_word _ _ rfl rfl rfl, ⟨rfl, rfl⟩, rfl,
    fun i hi => exists_of_translates ?_⟩
  revert i
  decide +kernel

/-- R-8: the second byte stands in the hole; an unmapped first byte (W-2's empty image), of a READ and of a GDT; D-9's last
byte but seven, of an IDT. -/
theorem witness_ReadFailsAtItsFirstBadByte :
    (let s := { holding (.read 0x1000 0x00007FFFFFFFFFFF 2) with
                mem := image [(0x17F8, 0x2003), (0x2FF8, 0x3003), (0x3FF8, 0x4003), (0x4FF8, 0x5003)] }
     ConfigLegal s ∧ Holds s (.read 0x1000 0x00007FFFFFFFFFFF 2) ∧
       ReadsRange (.read 0x1000 0x00007FFFFFFFFFFF 2) 0x1000 0x00007FFFFFFFFFFF 2 ∧ Undisturbed s ∧ s.inaccessible = [] ∧
       1 < 2 ∧ AllTranslate s 0x1000 0x00007FFFFFFFFFFF 1 ∧
       physicalAddress s 0x1000 (0x00007FFFFFFFFFFF + BitVec.ofNat 64 1) =
         .error (.addressWidthViolation 0x0000800000000000)) ∧
    (let s := holding (.gdt 0x1000 0x1008 0)
     ConfigLegal s ∧ Holds s (.gdt 0x1000 0x1008 0) ∧ ReadsRange (.gdt 0x1000 0x1008 0) 0x1000 0x1008 1 ∧ Undisturbed s ∧
       s.inaccessible = [] ∧ 0 < 1 ∧ AllTranslate s 0x1000 0x1008 0 ∧
       physicalAddress s 0x1000 (0x1008 + BitVec.ofNat 64 0) = .error (.unmappedRange 0x1008)) ∧
    (let s := { holding (.idt 0x1000 0x3FFFFFF8 0xF) with mem := identity }
     ConfigLegal s ∧ Holds s (.idt 0x1000 0x3FFFFFF8 0xF) ∧
       ReadsRange (.idt 0x1000 0x3FFFFFF8 0xF) 0x1000 0x3FFFFFF8 16 ∧ Undisturbed s ∧ s.inaccessible = [] ∧ 8 < 16 ∧
       AllTranslate s 0x1000 0x3FFFFFF8 8 ∧
       physicalAddress s 0x1000 (0x3FFFFFF8 + BitVec.ofNat 64 8) = .error (.unmappedRange 0x40000000)) := by
  refine ⟨⟨configLegal_of_reset _ rfl rfl rfl, holds_of_word _ _ rfl rfl rfl, .inl ⟨2, rfl, rfl⟩, ⟨rfl, rfl⟩, rfl,
      by decide, fun i hi => exists_of_translates ?_, rfl⟩,
    ⟨configLegal_of_reset _ rfl rfl rfl, holds_of_word _ _ rfl rfl rfl, .inr ⟨0, .inl rfl, rfl⟩, ⟨rfl, rfl⟩, rfl,
      by decide, fun i hi => absurd hi (Nat.not_lt_zero i), rfl⟩,
    ⟨configLegal_of_reset _ rfl rfl rfl, holds_of_word _ _ rfl rfl rfl, .inr ⟨0xF, .inr rfl, rfl⟩, ⟨rfl, rfl⟩, rfl,
      by decide, fun i hi => exists_of_translates ?_, rfl⟩⟩
  · revert i
    decide +kernel
  · revert i
    decide +kernel

/-- The five clauses of SEG.CREATE, at 17, 7, 8, 15, 8 and 16 bytes (S-14, S-11, S-4, S-2). -/
theorem witness_SegCreateChecksInOrder : State.reset.phase = .idle ∧ 16 < (17 : BitVec 8).toNat ∧ (7 : BitVec 8).toNat < 8 ∧
    (8 ≤ (8 : BitVec 8).toNat ∧ (16 : BitVec 8).toNat ≤ 16 ∧ kindByC (slice 0x0000810000000000 44 40) = none) ∧
    (kindByC (slice 0x2300894567800067 44 40) = some .tss ∧ (15 : BitVec 8).toNat < SegKind.tss.size ∧
      SegKind.tss.size ≤ (16 : BitVec 8).toNat) ∧
    (kindByC (slice 0x00AF9A000000FFFF 44 40) = some .code ∧ SegKind.code.size ≤ (8 : BitVec 8).toNat) := by
  decide +kernel

theorem witness_TableCommandsReadTheTableFirst : State.reset.phase = .idle ∧
    State.reset.acceptsVa 0x00007FFFFFFFFFFF = true ∧ State.reset.acceptsVa 0x0000800000000000 = false := by
  decide

/-- Exactly one 8-byte slot left. -/
theorem witness_ShortSlotsMoveTheCursorBy8 : (inTable .gdt 7 0).walk = none ∧ (inTable .gdt 7 0).range = none ∧
    (inTable .gdt 7 0).table = some (tableFrame .gdt 7 0) ∧ (tableFrame .gdt 7 0).buf = some (bytesLE 0 8) ∧
    (tableFrame .gdt 7 0).kind = .gdt ∧ (tableFrame .gdt 7 0).off + 8 ≤ (tableFrame .gdt 7 0).bytes := by decide +kernel

/-- The same state serves the statements of the unsupported slots. -/
theorem witness_UnsupportedSlotsEndTheCommand : (inTable .gdt 7 0).walk = none ∧ (inTable .gdt 7 0).range = none ∧
    (inTable .gdt 7 0).table = some (tableFrame .gdt 7 0) ∧ (tableFrame .gdt 7 0).buf = some (bytesLE 0 8) ∧
    (tableFrame .gdt 7 0).kind = .gdt ∧ (tableFrame .gdt 7 0).off + 8 ≤ (tableFrame .gdt 7 0).bytes :=
  witness_ShortSlotsMoveTheCursorBy8

/-- Exactly 16 bytes left, and 15. -/
theorem witness_LongSlotsMoveTheCursorBy16 :
    ((inTable .gdt 15 0).walk = none ∧ (inTable .gdt 15 0).range = none ∧
      (inTable .gdt 15 0).table = some (tableFrame .gdt 15 0) ∧ (tableFrame .gdt 15 0).buf = some (bytesLE 0 16) ∧
      (tableFrame .gdt 15 0).kind = .gdt ∧ (tableFrame .gdt 15 0).off + 16 ≤ (tableFrame .gdt 15 0).bytes) ∧
    ((inTable .gdt 14 0).walk = none ∧ (inTable .gdt 14 0).range = none ∧
      (inTable .gdt 14 0).table = some (tableFrame .gdt 14 0) ∧ (tableFrame .gdt 14 0).buf = some (bytesLE 0 15) ∧
      (tableFrame .gdt 14 0).off + 8 ≤ (tableFrame .gdt 14 0).bytes ∧
      (tableFrame .gdt 14 0).bytes < (tableFrame .gdt 14 0).off + 16) := by decide +kernel

/-- Exactly 16 bytes left. -/
theorem witness_GateSlotsMoveTheCursorBy16 : (inTable .idt 15 0).walk = none ∧ (inTable .idt 15 0).range = none ∧
    (inTable .idt 15 0).table = some (tableFrame .idt 15 0) ∧ (tableFrame .idt 15 0).buf = some (bytesLE 0 16) ∧
    (tableFrame .idt 15 0).kind = .idt ∧ (tableFrame .idt 15 0).off + 16 ≤ (tableFrame .idt 15 0).bytes := by
  decide +kernel

/-- A whole TSS slot and 4 bytes more. -/
theorem witness_GdtDecodesItsWholeTable :
    let v := 0xFFFFFFFF0000000000000000000100002300894567800067
    (inTable .gdt 19 v).walk = none ∧ (inTable .gdt 19 v).range = none ∧
    (inTable .gdt 19 v).table = some (tableFrame .gdt 19 v) ∧ (tableFrame .gdt 19 v).buf = some (bytesLE v 20) ∧
    (tableFrame .gdt 19 v).kind = .gdt ∧ (bytesLE v 20).length = (tableFrame .gdt 19 v).bytes ∧
    (tableFrame .gdt 19 v).off = 0 ∧ (tableFrame .gdt 19 v).segs = [] := by decide +kernel

/-- D-12's shape: one gate and 8 bytes more. -/
theorem witness_IdtDecodesEverySixteenBytes :
    let v := 0x00000000FFFFFFFF80108E0100082030
    (inTable .idt 23 v).walk = none ∧ (inTable .idt 23 v).range = none ∧
    (inTable .idt 23 v).table = some (tableFrame .idt 23 v) ∧ (tableFrame .idt 23 v).buf = some (bytesLE v 24) ∧
    (tableFrame .idt 23 v).kind = .idt ∧ (bytesLE v 24).length = (tableFrame .idt 23 v).bytes ∧
    (tableFrame .idt 23 v).off = 0 ∧ (tableFrame .idt 23 v).gates = [] := by decide +kernel

/-- D-5's table of one byte. -/
theorem witness_GdtDecodesItsWholeTable_command :
    let s := { holding (.gdt 0x1000 0x5000 0) with mem := identity }
    ConfigLegal s ∧ Holds s (.gdt 0x1000 0x5000 0) ∧ Undisturbed s ∧ s.inaccessible = [] ∧
      AllTranslate s 0x1000 0x5000 ((0 : BitVec 16).toNat + 1) := by
  refine ⟨configLegal_of_reset _ rfl rfl rfl, holds_of_word _ _ rfl rfl rfl, ⟨rfl, rfl⟩, rfl,
    fun i hi => exists_of_translates ?_⟩
  revert i
  decide +kernel

/-- A table of exactly one gate. -/
theorem witness_IdtDecodesEverySixteenBytes_command :
    let s := { holding (.idt 0x1000 0x6000 0xF) with mem := identity }
    ConfigLegal s ∧ Holds s (.idt 0x1000 0x6000 0xF) ∧ Undisturbed s ∧ s.inaccessible = [] ∧
      AllTranslate s 0x1000 0x6000 ((0xF : BitVec 16).toNat + 1) := by
  refine ⟨configLegal_of_reset _ rfl rfl rfl, holds_of_word _ _ rfl rfl rfl, ⟨rfl, rfl⟩, rfl,
    fun i hi => exists_of_translates ?_⟩
  revert i
  decide +kernel

theorem witness_BusyBlockRefusesCommands : (Instr.split 0).kind = .command ∧ (walkingAt .l4).phase ≠ .idle ∧
    copying.phase ≠ .idle ∧ (inTable .gdt 7 0).phase ≠ .idle := by decide +kernel

/-- A walk at another level; a block in another phase. -/
theorem witness_RowsOutsideTheirFrameAreRefused :
    ((Instr.pteL1P1 1).kind = .entry .l1 ∧ ∀ f, (walkingAt .l4).walk = some f → f.level ≠ .l1) ∧
    ((Instr.segdescNull 0).kind = .segment ∧ (Instr.gatedesc 0).kind = .gate ∧ State.reset.phase ≠ .table) := by
  refine ⟨⟨rfl, fun f hf => ?_⟩, rfl, rfl, by decide⟩
  have h : f = frameAt .l4 := by injection hf with h; exact h.symm
  rw [h]
  decide

/-- TABLE frames that are not at a slot of the row: of the other kind, without a buffer, with 7 and with 15 bytes left. -/
theorem witness_RowsOutsideTheirFrameAreRefused_table :
    (∀ s ∈ [inTable .idt 15 0, { State.reset with table := some { tableFrame .gdt 7 0 with buf := none } }, inTable .gdt 6 0],
      s.phase = .table ∧ ∀ t ∈ s.table, t.buf ≠ none → t.kind = .gdt → t.bytes < t.off + 8) ∧
    (∀ s ∈ [inTable .gdt 15 0, { State.reset with table := some { tableFrame .idt 15 0 with buf := none } }, inTable .idt 14 0],
      s.phase = .table ∧ ∀ t ∈ s.table, t.buf ≠ none → t.kind = .idt → t.bytes < t.off + 16) := by decide +kernel

/-- An entry read and a data read. -/
theorem witness_FailedReadEndsTheCommand :
    (nextRead { walkingAt .l4 with answers := [.fail] } = some (0x2008, .b8) ∧
      readerAnswer { walkingAt .l4 with answers := [.fail] } 0x2008 .b8 = (.fail, [])) ∧
    (nextRead { copying with inaccessible := [0x600000] } = some (0x600000, .b8) ∧
      readerAnswer { copying with inaccessible := [0x600000] } 0x600000 .b8 = (.fail, [])) := by decide +kernel

theorem witness_UnansweredReadWaitsForever :
    nextRead { copying with answers := [.never] } = some (0x600000, .b8) ∧
      { copying with answers := [.never] }.answers = [.never] := by decide +kernel

/-- A step with no read and a step with one. -/
theorem witness_EachStepReadsAtMostOnce : (nextOf (step State.reset)).isSome = true ∧
    ((nextOf (step copying)).map fun t => t.readLog.length) = some 1 := by decide +kernel

/-- The state of a RESOLVE after its first step, and of a GDT after its first step, are in order. -/
theorem sequencerInv_walking : SequencerInv { State.reset with walk := some (firstWalkFrame 0x1000 0x1008) } where
  config := configLegal_of_reset _ rfl rfl rfl
  memory := rfl
  nesting := fun _ _ _ h => nomatch h
  walk := fun f hf => by
    have h : f = firstWalkFrame 0x1000 0x1008 := by injection hf with h; exact h.symm
    subst h
    exact ⟨rfl, rfl, rfl, (fun _ _ he => nomatch he), fun _ => rfl, fun hl => absurd rfl hl⟩
  range := fun _ h => nomatch h
  table := fun _ h => nomatch h

/-- The state of a READ that copies a chunk is in order. -/
theorem sequencerInv_copying : SequencerInv copying where
  config := configLegal_of_reset _ rfl rfl rfl
  memory := rfl
  nesting := fun _ _ h => nomatch h
  walk := fun _ h => nomatch h
  range := fun r hr => by
    have h : r = { rangeFrame with copy := some copyState } := by injection hr with h; exact h.symm
    subst h
    exact { remaining := by decide, walking := fun h => nomatch h
            copying := fun c hc => by
              have h : c = copyState := by injection hc with h; exact h.symm
              subst h
              decide }
  table := fun _ h => nomatch h

/-- The 8-byte read of a chunk, and the level-4 read under an aligned root. -/
theorem witness_EightByteReadsAreAligned :
    (SequencerInv copying ∧ nextRead copying = some (0x600000, .b8) ∧
      ∀ f, copying.walk = some f → f.level = .l4 → f.root.toNat % 8 = 0) ∧
    (let s := { State.reset with walk := some (firstWalkFrame 0x1000 0x1008) }
     SequencerInv s ∧ nextRead s = some (0x1000, .b8) ∧ ∀ f, s.walk = some f → f.level = .l4 → f.root.toNat % 8 = 0) := by
  refine ⟨⟨sequencerInv_copying, rfl, fun f h => nomatch h⟩, sequencerInv_walking, rfl, fun f hf _ => ?_⟩
  have h : f = firstWalkFrame 0x1000 0x1008 := by injection hf with h; exact h.symm
  rw [h]
  decide

/-- At the top of the address space, where the eight bytes wrap to 0. -/
theorem witness_EightByteAnswerIsEightBytes : imageAnswer [(3, 0xAB)] [] 0xFFFFFFFFFFFFFFFC .b8 =
    .value 0xAB00000000000000 := by decide +kernel

/-- A step with a read answered and one to come; a command's first step, which samples nothing. -/
theorem witness_AbortActsExactlyBetweenReads :
    ((nextOf (step { copying with aborts := [] })).map fun t => (t.readLog.length, t.phase)) = some (1, .range) ∧
    ((nextOf (step { holding (.resolve 0 0) with aborts := [] })).map fun t => (t.readLog.length, t.phase)) =
      some (0, .walk) := by decide +kernel

theorem witness_AnOutcomeLeavesTheBlockIdle :
    rspOf (step (holding (.split 0x1008))) ≠ (holding (.split 0x1008)).rsp ∧
    (nextOf (step (holding (.split 0x1008)))).isSome = true := by decide +kernel

theorem witness_NothingWritesMemoryOrConfiguration :
    (nextOf (step { copying with mem := identity })).isSome = true ∧
    (nextOf (exec (.pteL4P1PS0 0x3007) { walkingAt .l4 with mem := identity })).isSome = true := by decide +kernel

theorem witness_EveryStepKeepsTheSequencerInOrder : SequencerInv copying ∧ (nextOf (step copying)).isSome = true :=
  ⟨sequencerInv_copying, by decide +kernel⟩

/-- A RESOLVE that stopped at a PML4 entry that is not present. -/
def unmapped : TranslationResult :=
  { pageBase := none, pageSize := none, pageOffset := none, entries := [decodeEntry 40 .l4 0x1000 0 0] }

theorem translationOk_unmapped : TranslationOk 40 unmapped :=
  ⟨[], _, rfl, by decide, (fun _ _ he => nomatch he), rfl, .inl ⟨rfl, rfl, rfl, rfl⟩⟩

/-- With that outcome in RSP. -/
theorem witness_EveryStepKeepsTheResponseInOrder :
    let s := { copying with rsp := some (okay (.translation unmapped)) }
    SequencerInv s ∧ ResponseInv s ∧ (nextOf (step s)).isSome = true := by
  refine ⟨⟨configLegal_of_reset _ rfl rfl rfl, sequencerInv_copying.memory, sequencerInv_copying.nesting,
    (fun _ h => nomatch h), fun r hr => ?_, fun _ h => nomatch h⟩, fun r hr => ?_, by decide +kernel⟩
  · have h := sequencerInv_copying.range r hr
    exact ⟨h.remaining, h.walking, h.copying⟩
  · have h := (Option.some.inj hr).symm
    subst h
    exact ⟨rfl, translationOk_unmapped⟩

/-- Two states with different pasts: no outcome and no reads, and one of each. -/
theorem witness_StepDoesNotDependOnPastCommands :
    SameButHistory copying { copying with rsp := some (okay (.bytes []))
                                          readLog := [{ addr := 0x1000, size := .b8, answer := some 0 }] } ∧
    (nextOf (step copying)).isSome = true := ⟨rfl, by decide +kernel⟩

theorem witness_EveryAnsweredCommandEnds :
    let s := { holding (.gdt 0x1000 0x5000 0x27) with answers := [.value 0x2003, .fail], aborts := [false] }
    Holds s (.gdt 0x1000 0x5000 0x27) ∧ ReaderAnswer.never ∉ s.answers :=
  ⟨holds_of_word _ _ rfl rfl rfl, by decide⟩

end Sys2Proof.Tests
end

/-!
The block right after construction: which inputs construct one, and what its configuration, its phase and its response
register hold (spec/10_state.md R130, 70_reset_and_hazards.md R800).
-/

namespace Sys2Proof

/-- A legal `M` fits the 8 bits of `CFG_M`, so the block latches it unchanged. -/
theorem Config.toNat_ofNat_of_le_maxM (m : Nat) (hmax : m ≤ Config.maxM) : (BitVec.ofNat 8 m).toNat = m := by
  have hfits : m < 2 ^ 8 := Nat.lt_of_le_of_lt hmax (by decide)
  rw [BitVec.toNat_ofNat, Nat.mod_eq_of_lt hfits]

end Sys2Proof

namespace Sys2Proof.Machine

/-- With the accepted architecture, construction succeeds for every legal `M` (70_reset_and_hazards.md R800). -/
theorem State.construct_of_legal (m : Nat) (hmin : Config.minM ≤ m) (hmax : m ≤ Config.maxM) :
    State.construct Config.archX86_64 m = .next (State.constructed Config.archX86_64 (BitVec.ofNat 8 m)) := by
  have hlegal : ¬(m < Config.minM ∨ Config.maxM < m) := by omega
  simp [State.construct, hlegal]

/-- A constructed block has no frame, so it is idle. -/
@[simp] theorem State.constructed_phase (arch m : BitVec 8) : (State.constructed arch m).phase = .idle :=
  (State.phase_idle_iff _).mpr ⟨rfl, rfl, rfl⟩

/-- With no value in RSP the caller's read is refused (10_state.md R130). -/
theorem State.readResponse_of_rsp_eq_none {s : State} (h : s.rsp = none) :
    s.readResponse = .refused .responseNotReady := by
  rw [State.readResponse, h]

end Sys2Proof.Machine

namespace Sys2Proof.Certificates

open Sys2Proof.Machine

/-- Settles O1: construction latches the legal `M`, and every other row of R130 is a field of the constructed block. -/
theorem constructionLeavesAnIdleBlock : Obligations.ConstructionLeavesAnIdleBlock := by
  intro m hmin hmax
  have hm : (BitVec.ofNat 8 m).toNat = m := Config.toNat_ofNat_of_le_maxM m hmax
  exact ⟨State.constructed Config.archX86_64 (BitVec.ofNat 8 m), State.construct_of_legal m hmin hmax,
    rfl, rfl, hm, State.constructed_phase _ _, rfl, rfl, rfl, rfl, rfl, State.readResponse_of_rsp_eq_none rfl⟩

end Sys2Proof.Certificates

/-!
What surrounds the block: no operation, no instruction and no step writes memory or the configuration (spec/20_memory.md
R205, 10_state.md R104). Two projections of the state say what is kept: `State.guest` through every step,
`State.surroundings` through every instruction, which reads nothing and takes no command either.
-/

namespace Sys2Proof.Machine

/-- What nothing in the block writes: the image the reader answers from (20_memory.md R200, R205) and the configuration
registers (10_state.md R104). -/
structure Guest where
  mem : Memory
  inaccessible : List Nat
  cfgArch : BitVec 8
  cfgVaBits : BitVec 8
  cfgM : BitVec 8

/-- What an instruction alone leaves as it is: the guest, and what only a read or the caller's own move changes. -/
structure Surroundings where
  guest : Guest
  answers : List ReaderAnswer
  commands : List CommandWord
  readLog : List ReadEvent

def State.guest (s : State) : Guest where
  mem := s.mem
  inaccessible := s.inaccessible
  cfgArch := s.cfgArch
  cfgVaBits := s.cfgVaBits
  cfgM := s.cfgM

def State.surroundings (s : State) : Surroundings where
  guest := s.guest
  answers := s.answers
  commands := s.commands
  readLog := s.readLog

theorem State.guest_eq_iff {s t : State} :
    t.guest = s.guest ↔ t.mem = s.mem ∧ t.inaccessible = s.inaccessible ∧
      t.cfgArch = s.cfgArch ∧ t.cfgVaBits = s.cfgVaBits ∧ t.cfgM = s.cfgM := by
  simp [State.guest]

theorem State.surroundings_eq_iff {s t : State} :
    t.surroundings = s.surroundings ↔
      t.guest = s.guest ∧ t.answers = s.answers ∧ t.commands = s.commands ∧ t.readLog = s.readLog := by
  simp [State.surroundings]

theorem State.guest_eq_of_surroundings_eq {s t : State} (h : t.surroundings = s.surroundings) : t.guest = s.guest :=
  congrArg Surroundings.guest h

/-! ### The shared operations keep the surroundings -/

@[simp] theorem State.complete_surroundings (s : State) (p : Payload) :
    (s.complete p).surroundings = s.surroundings := rfl

@[simp] theorem State.raise_surroundings (s : State) (e : ErrInfo) : (s.raise e).surroundings = s.surroundings := rfl

@[simp] theorem State.sampleAbort_surroundings (s : State) : s.sampleAbort.surroundings = s.surroundings := by
  obtain ⟨-, h⟩ | ⟨rest, -, h⟩ | ⟨rest, -, h⟩ := s.sampleAbort_cases <;> rw [h] <;> rfl

@[simp] theorem State.beginWalk_surroundings (s : State) (root va : Word) :
    (s.beginWalk root va).surroundings = s.surroundings := by
  obtain ⟨-, h⟩ | ⟨-, h⟩ := s.beginWalk_cases root va <;> rw [h] <;> rfl

@[simp] theorem State.endRange_surroundings (s : State) (out : List Byte) :
    (s.endRange out).surroundings = s.surroundings := by
  obtain ⟨-, h⟩ | ⟨t, -, h⟩ := s.endRange_cases out <;> rw [h] <;> rfl

@[simp] theorem State.rangeLoop_surroundings (s : State) (r : RangeFrame) (afterRead : Bool) :
    (s.rangeLoop r afterRead).surroundings = s.surroundings := by
  obtain ⟨-, h⟩ | ⟨-, -, h⟩ | ⟨-, -, h⟩ := s.rangeLoop_cases r afterRead <;> rw [h]
  · exact s.endRange_surroundings r.out
  · rfl
  · cases afterRead
    · rfl
    · exact State.sampleAbort_surroundings _

@[simp] theorem State.beginTable_surroundings (s : State) (kind : TableKind) (root base : Word) (limit : BitVec 16) :
    (s.beginTable kind root base limit).surroundings = s.surroundings := by
  rw [State.beginTable_eq]
  exact State.rangeLoop_surroundings _ _ _

@[simp] theorem State.endWalk_surroundings (s : State) (t : TranslationResult) :
    (s.endWalk t).surroundings = s.surroundings := by
  obtain ⟨-, h⟩ | ⟨r, base, size, offset, -, -, -, -, h⟩ | ⟨r, -, -, h⟩ := s.endWalk_cases t <;> rw [h]
  · rfl
  · exact State.sampleAbort_surroundings _
  · rfl

@[simp] theorem State.afterDataRead_surroundings (s : State) (r : RangeFrame) (c : CopyState) (n : Nat) (v : Word) :
    (s.afterDataRead r c n v).surroundings = s.surroundings := by
  obtain ⟨-, h⟩ | ⟨-, h⟩ := s.afterDataRead_cases r c n v <;> rw [h]
  · exact State.sampleAbort_surroundings _
  · exact State.rangeLoop_surroundings _ _ _

/-! ### Every instruction keeps the surroundings -/

theorem State.startCommand_surroundings {s t : State} {k : State → State}
    (h : s.startCommand k = .next t) (hk : (k s).surroundings = s.surroundings) : t.surroundings = s.surroundings := by
  obtain ⟨-, rfl⟩ := State.startCommand_next h
  exact hk

theorem State.inWalk_surroundings {s t : State} {L : Level} {k : WalkFrame → State}
    (h : s.inWalk L k = .next t) (hk : ∀ f, (k f).surroundings = s.surroundings) : t.surroundings = s.surroundings := by
  obtain ⟨f, -, -, rfl⟩ := State.inWalk_next h
  exact hk f

theorem State.inSlot_surroundings {s u : State} {kind : TableKind} {stride : Nat} {k : TableFrame → List Byte → State}
    (h : s.inSlot kind stride k = .next u) (hk : ∀ t buf, (k t buf).surroundings = s.surroundings) :
    u.surroundings = s.surroundings := by
  obtain ⟨-, -, t, buf, -, -, -, -, rfl⟩ := State.inSlot_next h
  exact hk t buf

theorem execPteDecode_surroundings {level : BitVec 8} {tableBase : Word} {index : BitVec 16} {raw : Word} {s t : State}
    (h : execPteDecode level tableBase index raw s = .next t) : t.surroundings = s.surroundings := by
  refine State.startCommand_surroundings h ?_
  cases levelOfByte level with
  | none => rfl
  | some L => dsimp only; split <;> rfl

/-- Every check of SEG.CREATE that fails raises, and what passes them all completes (43_segment_descriptors.md R560). -/
theorem execSegCreate_surroundings {n : BitVec 8} {b : Word128} {s t : State}
    (h : execSegCreate n b s = .next t) : t.surroundings = s.surroundings := by
  refine State.startCommand_surroundings h ?_
  split
  · rfl
  · split
    · rfl
    · dsimp only
      split
      · rfl
      · split <;> rfl

theorem walkUnmapped_surroundings {L : Level} {raw : Word} {s t : State} (h : walkUnmapped L raw s = .next t) :
    t.surroundings = s.surroundings :=
  State.inWalk_surroundings h fun _ => s.endWalk_surroundings _

theorem walkMapped_surroundings {L : Level} {raw : Word} {s t : State} (h : walkMapped L raw s = .next t) :
    t.surroundings = s.surroundings :=
  State.inWalk_surroundings h fun _ => s.endWalk_surroundings _

theorem walkDescend_surroundings {L lower : Level} {raw : Word} {s t : State}
    (h : walkDescend L lower raw s = .next t) : t.surroundings = s.surroundings :=
  State.inWalk_surroundings h fun _ => State.sampleAbort_surroundings _

theorem segShort_surroundings {k : SegKind} {d : Word} {s t : State} (h : segShort k d s = .next t) :
    t.surroundings = s.surroundings :=
  State.inSlot_surroundings h fun _ _ => rfl

theorem segLong_surroundings {k : SegKind} {d : Word} {s t : State} (h : segLong k d s = .next t) :
    t.surroundings = s.surroundings :=
  State.inSlot_surroundings h fun _ _ => by split <;> rfl

theorem segUnsupported_surroundings {d : Word} {s t : State} (h : segUnsupported d s = .next t) :
    t.surroundings = s.surroundings :=
  State.inSlot_surroundings h fun _ _ => rfl

/-- No instruction, whatever the state it runs from, changes what surrounds the block. -/
theorem exec_surroundings {i : Instr} {s t : State} (h : exec i s = .next t) : t.surroundings = s.surroundings := by
  unfold exec at h
  cases i with
  | bits | split | gateDecode | illegalCommand => exact State.startCommand_surroundings h rfl
  | pteDecode => exact execPteDecode_surroundings h
  | segCreate => exact execSegCreate_surroundings h
  | resolve root va => exact State.startCommand_surroundings h (s.beginWalk_surroundings root va)
  | read => exact State.startCommand_surroundings h (s.rangeLoop_surroundings _ _)
  | gdt root base limit => exact State.startCommand_surroundings h (s.beginTable_surroundings .gdt root base limit)
  | idt root base limit => exact State.startCommand_surroundings h (s.beginTable_surroundings .idt root base limit)
  | pteL4P0 | pteL3P0PS0 | pteL3P0PS1 | pteL2P0PS0 | pteL2P0PS1 | pteL1P0 => exact walkUnmapped_surroundings h
  | pteL3P1PS1 | pteL2P1PS1 | pteL1P1 => exact walkMapped_surroundings h
  | pteL4P1PS0 | pteL4P1PS1 | pteL3P1PS0 | pteL2P1PS0 => exact walkDescend_surroundings h
  | segdescData | segdescCode | segdescNull => exact segShort_surroundings h
  | segdescCallgate | segdescTssT9 | segdescTssTB | segdescTssTD => exact segLong_surroundings h
  | segdescUnsupportedT1 | segdescUnsupportedT2 | segdescUnsupportedT3 | segdescUnsupportedT4 | segdescUnsupportedT5
  | segdescUnsupportedT6 | segdescUnsupportedT7 | segdescUnsupportedT8 | segdescUnsupportedTA | segdescUnsupportedTC
  | segdescUnsupportedTE => exact segUnsupported_surroundings h
  | gatedesc => exact State.inSlot_surroundings h fun _ _ => rfl

/-! ### Every fetch and every step keeps the guest -/

/-- The state a fetch has in hand, with or without an instruction to run from it. -/
def Fetched.state : Fetched → State
  | .run _ s => s
  | .done s => s

@[simp] theorem Fetched.state_run (i : Instr) (s : State) : (Fetched.run i s).state = s := rfl
@[simp] theorem Fetched.state_done (s : State) : (Fetched.done s).state = s := rfl

@[simp] theorem State.callerStep_guest (s : State) : s.callerStep.guest = s.guest := by
  unfold State.callerStep
  cases s.commands <;> rfl

/-- A read keeps the guest if what follows its answer does: no outcome of the read itself writes it. -/
theorem memRead_guest {s : State} {a : Word} {n : ReadSize} {k : Word → State → Fetched}
    (hk : ∀ v s', (k v s').state.guest = s'.guest) : (memRead s a n k).state.guest = s.guest := by
  obtain ⟨v, rest, -, h⟩ | ⟨rest, -, h⟩ | ⟨rest, -, h⟩ := memRead_cases s a n k <;> rw [h]
  · exact hk v _
  · rfl
  · rfl

@[simp] theorem walkStep_guest (s : State) (f : WalkFrame) : (walkStep s f).state.guest = s.guest :=
  memRead_guest fun _ _ => rfl

@[simp] theorem rangeStep_guest (s : State) (r : RangeFrame) : (rangeStep s r).state.guest = s.guest := by
  unfold rangeStep
  split
  · exact State.guest_eq_of_surroundings_eq (s.rangeLoop_surroundings r false)
  · rename_i c _
    split
    · exact State.guest_eq_of_surroundings_eq (s.rangeLoop_surroundings (r.endChunk c) false)
    · exact memRead_guest fun v s' => State.guest_eq_of_surroundings_eq (s'.afterDataRead_surroundings r c _ v)

@[simp] theorem tableStep_guest (s : State) (t : TableFrame) : (tableStep s t).state.guest = s.guest := by
  unfold tableStep
  split
  · exact State.guest_eq_of_surroundings_eq (s.rangeLoop_surroundings _ false)
  · split <;> split <;> rfl

@[simp] theorem fetch_guest (s : State) : (fetch s).state.guest = s.guest := by
  obtain ⟨f, -, h⟩ | ⟨r, -, -, h⟩ | ⟨t, -, -, -, h⟩ | ⟨w, -, -, h⟩ | ⟨-, -, h⟩ := fetch_cases s <;> rw [h]
  · exact walkStep_guest s f
  · exact rangeStep_guest s r
  · exact tableStep_guest s t
  · rfl
  · exact s.callerStep_guest

/-- A step is a fetch and, where the fetch has one in hand, an instruction: neither writes the guest. -/
theorem step_guest {s t : State} (h : step s = .next t) : t.guest = s.guest := by
  have hfetch := fetch_guest s
  obtain ⟨i, s', hf, hs⟩ | ⟨u, hf, hs⟩ := step_cases s <;> rw [hf] at hfetch <;> rw [hs] at h
  · exact (State.guest_eq_of_surroundings_eq (exec_surroundings h)).trans hfetch
  · cases h
    exact hfetch

end Sys2Proof.Machine

namespace Sys2Proof.Certificates

open Sys2Proof.Machine

/-- Settles O54: a step keeps the guest (`step_guest`), an instruction alone all its surroundings
(`exec_surroundings`); an equal image reads the same at every address. -/
theorem nothingWritesMemoryOrConfiguration : Obligations.NothingWritesMemoryOrConfiguration := by
  refine ⟨fun s t h => ?_, fun i s t h => ?_⟩
  · have hguest := State.guest_eq_iff.mp (step_guest h)
    exact ⟨fun a => by rw [hguest.1], hguest⟩
  · obtain ⟨hguest, hrest⟩ := State.surroundings_eq_iff.mp (exec_surroundings h)
    obtain ⟨hmem, hinaccessible, harch, hva, hm⟩ := State.guest_eq_iff.mp hguest
    exact ⟨fun a => by rw [hmem], hmem, hinaccessible, harch, hva, hm, hrest⟩

end Sys2Proof.Certificates

/-!
The encoding rules that no other family needs (spec/30_encoding.md): the must-be-zero bits of a page-table entry (R318),
the opcodes that select no command (R302) and the pseudo-instructions (R305).
-/

namespace Sys2Proof

/-! ### Masks of consecutive bits -/

/-- `2^hi - 2^lo` is the mask of bits hi-1 to lo, the form in which 30_encoding.md R318 writes `RM(M)`. -/
theorem testBit_two_pow_sub_two_pow {lo hi : Nat} (h : lo ≤ hi) (i : Nat) :
    (2 ^ hi - 2 ^ lo).testBit i = decide (lo ≤ i ∧ i < hi) := by
  have hmask : 2 ^ hi - 2 ^ lo = (2 ^ (hi - lo) - 1) * 2 ^ lo := by
    rw [Nat.sub_mul, ← Nat.pow_add, Nat.sub_add_cancel h, Nat.one_mul]
  rw [hmask, Nat.testBit_mul_two_pow, Nat.testBit_two_pow_sub_one, ← Bool.decide_and, decide_eq_decide]
  omega

theorem getLsbD_ofNat_two_pow_sub_two_pow {w lo hi : Nat} (h : lo ≤ hi) (hw : hi ≤ w) (i : Nat) :
    (BitVec.ofNat w (2 ^ hi - 2 ^ lo)).getLsbD i = true ↔ lo ≤ i ∧ i < hi := by
  rw [BitVec.getLsbD_ofNat, testBit_two_pow_sub_two_pow h, Bool.and_eq_true, decide_eq_true_iff, decide_eq_true_iff]
  omega

/-- A word is not zero exactly where it has a bit. -/
theorem bne_zero_iff_exists_getLsbD {w : Nat} (v : BitVec w) : (v != 0) = true ↔ ∃ i, v.getLsbD i = true := by
  rw [bne_iff_ne]
  constructor
  · intro hne
    by_contra hnone
    exact hne (BitVec.eq_of_getLsbD_eq fun i _ => by simpa using fun hi => hnone ⟨i, hi⟩)
  · rintro ⟨i, hi⟩ rfl
    simp at hi

/-! ### Opcodes that select no command -/

/-- The opcode of a command word is its lowest byte (30_encoding.md R300). -/
theorem toNat_opcode (w : CommandWord) : (field w 0 8).toNat = w.toNat % 256 := by
  simp

/-- With an opcode outside 0x01 to 0x09 the word decodes to the illegal command of that opcode (30_encoding.md R302). -/
theorem decodeCommand_of_illegal_opcode {w : CommandWord} (h : w.toNat % 256 = 0 ∨ 0x0A ≤ w.toNat % 256) :
    decodeCommand w = .illegalCommand (BitVec.ofNat 8 (w.toNat % 256)) := by
  have hop := toNat_opcode w
  have hillegal : decodeCommand w = .illegalCommand (field w 0 8) := by
    unfold decodeCommand
    split
    case h_10 => rfl
    all_goals omega
  rw [hillegal, ← hop, BitVec.ofNat_toNat, BitVec.setWidth_eq]

/-! ### Operands of the assembler -/

theorem fits_of_lt {w n : Nat} (h : n < 2 ^ w) : fits w n = some (BitVec.ofNat w n) := if_pos h

/-- The numbers of at most 16 bytes are a legal byte list, with the little-endian value of the bytes (30_encoding.md
R304). -/
theorem byteList_map_toNat {bs : List Byte} (h : bs.length ≤ 16) :
    byteList (bs.map BitVec.toNat) = some (BitVec.ofNat 128 (le bs)) := by
  have hbytes : (bs.map BitVec.toNat).all (fun b => decide (b < 256)) = true := by
    simpa using fun b _ => b.isLt
  have hback : (bs.map BitVec.toNat).map (fun b => BitVec.ofNat 8 b) = bs := by
    simp [Function.comp_def]
  rw [byteList, if_pos ⟨by simpa using h, hbytes⟩, hback]

/-- SEG.CREATE of up to 16 bytes: how many they are, and their value. -/
theorem assemble_segCreate_map_toNat {bs : List Byte} (h : bs.length ≤ 16) :
    assemble (.segCreate (bs.map BitVec.toNat)) =
      some (.segCreate (BitVec.ofNat 8 bs.length) (BitVec.ofNat 128 (le bs))) := by
  simp [assemble, byteList_map_toNat h]

/-- GATE.DECODE of 16 bytes: their value. -/
theorem assemble_gateDecode_map_toNat {bs : List Byte} (h : bs.length = 16) :
    assemble (.gateDecode (bs.map BitVec.toNat)) = some (.gateDecode (BitVec.ofNat 128 (le bs))) := by
  simp [assemble, byteList_map_toNat h.le, h]

/-- The eight bytes of a 64-bit operand have that operand as their value, whose upper half is 0. -/
theorem ofNat_le_bytesLE_eight (q : Nat) :
    BitVec.ofNat 128 (le (bytesLE q 8)) = (BitVec.ofNat 64 q).setWidth 128 := by
  apply BitVec.eq_of_toNat_eq
  simp only [le_bytesLE, BitVec.toNat_ofNat, BitVec.toNat_setWidth]

/-- The bytes of `lo` and behind them those of `hi` have the value of the two operands side by side. -/
theorem ofNat_le_bytesLE_append {lo hi : Nat} (hlo : lo < 2 ^ 64) (hhi : hi < 2 ^ 64) :
    BitVec.ofNat 128 (le (bytesLE lo 8 ++ bytesLE hi 8)) = BitVec.ofNat 64 hi ++ BitVec.ofNat 64 lo := by
  have hvalue : le (bytesLE lo 8 ++ bytesLE hi 8) = lo + 2 ^ 64 * hi := by
    rw [le_append, length_bytesLE, le_bytesLE, le_bytesLE, Nat.mod_eq_of_lt hlo, Nat.mod_eq_of_lt hhi]
  apply BitVec.eq_of_toNat_eq
  rw [hvalue, BitVec.toNat_append, BitVec.toNat_ofNat, BitVec.toNat_ofNat, BitVec.toNat_ofNat,
    Nat.mod_eq_of_lt hlo, Nat.mod_eq_of_lt hhi, ← Nat.shiftLeft_add_eq_or_of_lt hlo, Nat.shiftLeft_eq]
  omega

end Sys2Proof

namespace Sys2Proof.Machine

open Sys2Proof.Safety

/-! ### The must-be-zero bits of an entry -/

theorem getLsbD_reservedAboveM {M : Nat} (hM : M ≤ 52) (i : Nat) :
    (reservedAboveM M).getLsbD i = true ↔ M ≤ i ∧ i < 52 :=
  getLsbD_ofNat_two_pow_sub_two_pow hM (by decide) i

/-- Bit 7, the bit that must be 0 at level 4. -/
theorem getLsbD_rsvd_l4 (i : Nat) : (0x80#64).getLsbD i = true ↔ i = 7 := by
  have h := getLsbD_ofNat_two_pow_sub_two_pow (w := 64) (lo := 7) (hi := 8) (by decide) (by decide) i
  exact h.trans (by omega)

/-- Bits 29:13, which must be 0 in a 1 GiB leaf. -/
theorem getLsbD_rsvd_leaf1G (i : Nat) : (0x3FFFE000#64).getLsbD i = true ↔ 13 ≤ i ∧ i ≤ 29 := by
  have h := getLsbD_ofNat_two_pow_sub_two_pow (w := 64) (lo := 13) (hi := 30) (by decide) (by decide) i
  exact h.trans (by omega)

/-- Bits 20:13, which must be 0 in a 2 MiB leaf. -/
theorem getLsbD_rsvd_leaf2M (i : Nat) : (0x1FE000#64).getLsbD i = true ↔ 13 ≤ i ∧ i ≤ 20 := by
  have h := getLsbD_ofNat_two_pow_sub_two_pow (w := 64) (lo := 13) (hi := 21) (by decide) (by decide) i
  exact h.trans (by omega)

/-- The mask of an entry's level and form has exactly the bits that 30_encoding.md R318 lists. -/
theorem getLsbD_rsvd_form {M : Nat} (hM : M ≤ 52) (L : Level) (raw : Word) (i : Nat) :
    (rsvd M L (form L raw)).getLsbD i = true ↔ MustBeZero M L raw i := by
  have habove := getLsbD_reservedAboveM hM i
  cases L with
  | l1 => simp [rsvd, MustBeZero, habove]
  | l2 =>
    cases hps : raw.getLsbD 7
    · simp only [rsvd, form, MustBeZero, hps]
      simp [habove]
    · simp only [rsvd, form, MustBeZero, hps]
      simp [habove, getLsbD_rsvd_leaf2M]
  | l3 =>
    cases hps : raw.getLsbD 7
    · simp only [rsvd, form, MustBeZero, hps]
      simp [habove]
    · simp only [rsvd, form, MustBeZero, hps]
      simp [habove, getLsbD_rsvd_leaf1G]
  | l4 => simp [rsvd, MustBeZero, habove, getLsbD_rsvd_l4]

theorem getLsbD_reservedBits {M : Nat} (hM : M ≤ 52) (L : Level) (raw : Word) (i : Nat) :
    (reservedBits M L raw).getLsbD i = true ↔ raw.getLsbD i = true ∧ MustBeZero M L raw i := by
  rw [reservedBits, BitVec.getLsbD_and, Bool.and_eq_true, getLsbD_rsvd_form hM]

theorem faulty_iff {M : Nat} (hM : M ≤ 52) (L : Level) (raw : Word) :
    faulty M L raw = true ↔ ∃ i, raw.getLsbD i = true ∧ MustBeZero M L raw i := by
  rw [faulty, bne_zero_iff_exists_getLsbD]
  exact exists_congr (getLsbD_reservedBits hM L raw)

/-! ### Starting the command of CMD -/

/-- A command that an idle block starts ends in the state of its meaning. -/
theorem State.startCommand_of_idle {s : State} (h : s.phase = .idle) (k : State → State) :
    s.startCommand k = .next (k s) := by
  rw [State.startCommand_eq, if_pos h]

/-- The step of an idle block with a word in CMD is the meaning of the decoded command (10_state.md R102). -/
theorem step_of_command {s : State} {w : CommandWord} (h : s.phase = .idle) (hcmd : s.cmd = some w) :
    step s = exec (decodeCommand w) s := by
  obtain ⟨hwalk, hrange, htable⟩ := s.phase_idle_iff.mp h
  simp only [step, fetch, hwalk, hrange, htable, hcmd]

/-- The illegal command in an idle block raises its error and does nothing else (30_encoding.md R302). -/
theorem exec_illegalCommand_of_idle {s : State} (h : s.phase = .idle) (opcode : BitVec 8) :
    exec (.illegalCommand opcode) s = .next (answered s (failed 8 (.illegalCommand opcode))) :=
  State.startCommand_of_idle h fun s => s.raise (.illegalCommand opcode)

end Sys2Proof.Machine

namespace Sys2Proof.Certificates

open Sys2Proof.Machine

/-- Settles O17, from the mask of each level and form (`getLsbD_rsvd_form`). -/
theorem entryReservedBitsFollowTheMasks : Obligations.EntryReservedBitsFollowTheMasks :=
  fun _ L _ _ raw _ hM => ⟨getLsbD_reservedBits hM L raw, faulty_iff hM L raw⟩

/-- Settles O44: the step decodes such a word to the illegal command of its opcode, which raises at once. -/
theorem illegalCommandEndsAtOnce : Obligations.IllegalCommandEndsAtOnce := by
  refine ⟨fun opcode s hidle => exec_illegalCommand_of_idle hidle opcode, fun w s hidle hcmd hop => ?_⟩
  rw [step_of_command hidle hcmd, decodeCommand_of_illegal_opcode hop]
  exact exec_illegalCommand_of_idle hidle _

/-- Settles O9: a READ's length fits its field, and a byte list has the value of the operands it spells. -/
theorem pseudoInstructionsExpand : Obligations.PseudoInstructionsExpand := by
  intro root va lo hi
  have hreadq : fits 64 8 = some 8 := fits_of_lt (by decide)
  have hreadb : fits 64 1 = some 1 := fits_of_lt (by decide)
  refine ⟨by simp [assemble, hreadq], by simp [assemble, hreadb], fun hlo hhi => ⟨?_, ?_, ?_⟩⟩
  · rw [assemble_segCreate_map_toNat (by simp), length_bytesLE, ofNat_le_bytesLE_eight]
    simp [assemble, fits_of_lt hlo]
  · rw [assemble_segCreate_map_toNat (by simp), List.length_append, length_bytesLE, length_bytesLE,
      ofNat_le_bytesLE_append hlo hhi]
    simp [assemble, fits_of_lt hlo, fits_of_lt hhi]
  · rw [assemble_gateDecode_map_toNat (by simp), ofNat_le_bytesLE_append hlo hhi]
    simp [assemble, fits_of_lt hlo, fits_of_lt hhi]

end Sys2Proof.Certificates

/-!
The bit-field extractor `bits` and the command BITS that answers with it (spec/40_bitfield.md R400 to R402): the two bounds,
each bit, and that no bit is lost in the 128-bit response.
-/

namespace Sys2Proof

/-! ### The extractor on naturals -/

/-- The first bound of R402. -/
theorem bits_lt_two_pow (v s n : Nat) : bits v s n < 2 ^ n := by
  rw [bits_eq_div_mod]
  exact Nat.mod_lt _ (Nat.two_pow_pos n)

/-- The second bound of R402. -/
theorem bits_le_shiftRight (v s n : Nat) : bits v s n ≤ v >>> s := Nat.and_le_left

theorem testBit_bits (v s n i : Nat) : (bits v s n).testBit i = (decide (i < n) && v.testBit (s + i)) := by
  rw [bits, Nat.testBit_and, Nat.testBit_shiftRight, Nat.testBit_two_pow_sub_one, Bool.and_comm]

/-! ### The extractor on words -/

/-- A slice of a word fits the width of that word, since it is at most the shifted word, so writing it back loses no bit. -/
theorem toNat_ofNat_bits {w : Nat} (v : BitVec w) (s n : Nat) :
    (BitVec.ofNat w (bits v.toNat s n)).toNat = bits v.toNat s n := by
  have hfits : bits v.toNat s n < 2 ^ w :=
    calc bits v.toNat s n ≤ v.toNat >>> s := bits_le_shiftRight v.toNat s n
      _ ≤ v.toNat := Nat.shiftRight_le v.toNat s
      _ < 2 ^ w := v.isLt
  rw [BitVec.toNat_ofNat, Nat.mod_eq_of_lt hfits]

theorem getLsbD_ofNat_bits {w : Nat} (v : BitVec w) (s n i : Nat) :
    (BitVec.ofNat w (bits v.toNat s n)).getLsbD i = (decide (i < n) && v.getLsbD (s + i)) := by
  rw [← BitVec.testBit_toNat, toNat_ofNat_bits, testBit_bits, BitVec.testBit_toNat]

end Sys2Proof

namespace Sys2Proof.Machine

open Sys2Proof.Safety

/-- BITS in an idle block answers with the extracted field and does nothing else (40_bitfield.md R401). -/
theorem exec_bits_of_idle {s : State} (h : s.phase = .idle) (value : Word128) (start nbits : BitVec 8) :
    exec (.bits value start nbits) s =
      .next (answered s (okay (.bits (BitVec.ofNat 128 (bits value.toNat start.toNat nbits.toNat))))) :=
  State.startCommand_of_idle h fun s =>
    s.complete (.bits (BitVec.ofNat 128 (bits value.toNat start.toNat nbits.toNat)))

end Sys2Proof.Machine

namespace Sys2Proof.Certificates

open Sys2Proof.Machine

/-- Settles O13: the answer is the extractor's value unchanged (`toNat_ofNat_bits`), so its bounds and its bits are the
extractor's. -/
theorem bitsExtractsTheField : Obligations.BitsExtractsTheField := by
  intro value start nbits s hidle
  have hvalue := toNat_ofNat_bits value start.toNat nbits.toNat
  exact ⟨_, exec_bits_of_idle hidle value start nbits, hvalue,
    hvalue.trans_lt (bits_lt_two_pow value.toNat start.toNat nbits.toNat),
    hvalue.trans_le (bits_le_shiftRight value.toNat start.toNat nbits.toNat),
    getLsbD_ofNat_bits value start.toNat nbits.toNat⟩

end Sys2Proof.Certificates

/-!
Translation, up to the first read of a walk (spec/41_translation.md): the split of an address (R420, R421), the form, the
flags and the frame of an entry (R424 to R426), the round trip of an encoded entry (R439) and RESOLVE's check of the
address width (R429).
-/

namespace Sys2Proof

open Sys2Proof.Safety

/-! ### Slices of numbers -/

theorem bits_eq_slice {v hi lo n : Nat} (hn : lo + n = hi + 1) (hlo : lo ≤ hi) : bits v lo n = slice v hi lo := by
  have hwidth : hi - lo + 1 = n := by omega
  rw [bits_eq_div_mod, slice, hwidth]

/-- A field that a decoder takes is the slice `v[hi:lo]` of 00_scope.md R10. -/
theorem toNat_field_eq_slice {w : Nat} (v : BitVec w) {hi lo n : Nat} (hn : lo + n = hi + 1) (hlo : lo ≤ hi) :
    (field v lo n).toNat = slice v.toNat hi lo := by
  rw [field_toNat, bits_eq_slice hn hlo]

end Sys2Proof

namespace Sys2Proof.Machine

open Sys2Proof.Safety

/-! ### The split of an address -/

theorem splitIs_splitAddress (va : Word) : SplitIs va (splitAddress va) where
  pml4 := toNat_field_eq_slice va (by decide) (by decide)
  pdpt := toNat_field_eq_slice va (by decide) (by decide)
  pd := toNat_field_eq_slice va (by decide) (by decide)
  pt := toNat_field_eq_slice va (by decide) (by decide)
  offset4K := toNat_field_eq_slice va (by decide) (by decide)
  view2M := ⟨rfl, rfl, rfl⟩
  offset2M := toNat_field_eq_slice va (by decide) (by decide)
  view1G := ⟨rfl, rfl⟩
  offset1G := toNat_field_eq_slice va (by decide) (by decide)

/-- SPLIT in an idle block answers with the split and does nothing else (41_translation.md R421). -/
theorem exec_split_of_idle {s : State} (h : s.phase = .idle) (va : Word) :
    exec (.split va) s = .next (answered s (okay (.split (splitAddress va)))) :=
  State.startCommand_of_idle h fun s => s.complete (.split (splitAddress va))

/-! ### The form and the flags of an entry -/

theorem form_eq_leaf_iff (L : Level) (raw : Word) : form L raw = .leaf ↔ IsLeaf L raw := by
  cases L <;> simp [form, IsLeaf]

theorem form_eq_table_iff (L : Level) (raw : Word) : form L raw = .table ↔ ¬ IsLeaf L raw := by
  rw [← form_eq_leaf_iff]
  cases form L raw <;> decide

theorem leafFlag_of_isLeaf {L : Level} {raw : Word} (h : IsLeaf L raw) (i : Nat) :
    leafFlag L raw i = some (raw.getLsbD i) := by
  rw [leafFlag, (form_eq_leaf_iff L raw).mpr h]

theorem leafFlag_of_not_isLeaf {L : Level} {raw : Word} (h : ¬ IsLeaf L raw) (i : Nat) : leafFlag L raw i = none := by
  rw [leafFlag, (form_eq_table_iff L raw).mpr h]

theorem patFlag_eq_leafFlag (L : Level) (raw : Word) : patFlag L raw = leafFlag L raw (if L = .l1 then 7 else 12) := by
  cases L <;> rfl

theorem pageSizeFlag_eq (L : Level) (raw : Word) :
    pageSizeFlag L raw = if L = .l1 then none else some (raw.getLsbD 7) := by
  cases L <;> rfl

theorem flagsAre_decodeEntry (M : Nat) (L : Level) (t : Word) (i : BitVec 9) (raw : Word) :
    FlagsAre L raw (decodeEntry M L t i raw) where
  form := form_eq_leaf_iff L raw
  present := rfl
  writable := rfl
  userAccessible := rfl
  writeThrough := rfl
  cacheDisable := rfl
  accessed := rfl
  executeDisable := rfl
  pageSize := pageSizeFlag_eq L raw
  leafDirty h := leafFlag_of_isLeaf h 6
  leafGlobal h := leafFlag_of_isLeaf h 8
  leafPat h := (patFlag_eq_leafFlag L raw).trans (leafFlag_of_isLeaf h _)
  tableAbsent h := ⟨leafFlag_of_not_isLeaf h 6, leafFlag_of_not_isLeaf h 8,
    (patFlag_eq_leafFlag L raw).trans (leafFlag_of_not_isLeaf h _)⟩

/-! ### The frame of an entry -/

/-- The largest shift is below the smallest legal `M`, so every frame reference has bits. -/
theorem frameShift_le (L : Level) (f : Form) : frameShift L f ≤ 30 := by
  cases L <;> cases f <;> decide

theorem le_frameShift (L : Level) (f : Form) : 12 ≤ frameShift L f := by
  cases L <;> cases f <;> decide

theorem frameShift_of_leaf_l3 {raw : Word} (h : raw.getLsbD 7 = true) : frameShift .l3 (form .l3 raw) = 30 := by
  rw [(form_eq_leaf_iff .l3 raw).mpr (.inr ⟨.inr rfl, h⟩), frameShift]

theorem frameShift_of_leaf_l2 {raw : Word} (h : raw.getLsbD 7 = true) : frameShift .l2 (form .l2 raw) = 21 := by
  rw [(form_eq_leaf_iff .l2 raw).mpr (.inr ⟨.inl rfl, h⟩), frameShift]

/-- Only the leaves of levels 3 and 2 have a shift other than 12. -/
theorem frameShift_of_not_large_leaf {L : Level} {raw : Word}
    (h : ¬ ((L = .l3 ∨ L = .l2) ∧ raw.getLsbD 7 = true)) : frameShift L (form L raw) = 12 := by
  cases L with
  | l4 | l1 => rfl
  | l3 => rw [(form_eq_table_iff .l3 raw).mpr (by simpa [IsLeaf] using h), frameShift]
  | l2 => rw [(form_eq_table_iff .l2 raw).mpr (by simpa [IsLeaf] using h), frameShift]

theorem frameRef_lt (M : Nat) (L : Level) (raw : Word) : frameRef M L raw < 2 ^ (M - frameShift L (form L raw)) :=
  bits_lt_two_pow _ _ _

/-- A number of `M - sh` bits, shifted left by `sh`, is below `2^M`. -/
theorem mul_two_pow_lt_of_lt {r M sh : Nat} (hsh : sh ≤ M) (h : r < 2 ^ (M - sh)) : r * 2 ^ sh < 2 ^ M :=
  calc r * 2 ^ sh < 2 ^ (M - sh) * 2 ^ sh := Nat.mul_lt_mul_of_pos_right h (Nat.two_pow_pos sh)
    _ = 2 ^ M := by rw [← Nat.pow_add, Nat.sub_add_cancel hsh]

/-- The base of an entry with a frame reference of `M - sh` bits is that reference shifted, with no bit lost. -/
theorem Entry.toNat_base {e : Entry} {M : Nat} (hM : M ≤ 64) (hsh : e.frameShift ≤ M)
    (h : e.frameRef < 2 ^ (M - e.frameShift)) : e.base.toNat = e.frameRef * 2 ^ e.frameShift := by
  have hfits : e.frameRef * 2 ^ e.frameShift < 2 ^ 64 :=
    (mul_two_pow_lt_of_lt hsh h).trans_le (Nat.pow_le_pow_right (by decide) hM)
  rw [Entry.base, BitVec.toNat_ofNat, Nat.shiftLeft_eq, Nat.mod_eq_of_lt hfits]

theorem frameIs_decodeEntry {M : Nat} (hmin : 32 ≤ M) (hmax : M ≤ 52) (L : Level) (t : Word) (i : BitVec 9)
    (raw : Word) : FrameIs M L raw (decodeEntry M L t i raw) := by
  have hshift : frameShift L (form L raw) ≤ 30 := frameShift_le L (form L raw)
  have hsh : (decodeEntry M L t i raw).frameShift ≤ M := hshift.trans (by omega)
  have hbound : (decodeEntry M L t i raw).frameRef < 2 ^ (M - (decodeEntry M L t i raw).frameShift) :=
    frameRef_lt M L raw
  have hbase := Entry.toNat_base (by omega) hsh hbound
  exact
    { shift3 := by rintro rfl hps; exact frameShift_of_leaf_l3 hps
      shift2 := by rintro rfl hps; exact frameShift_of_leaf_l2 hps
      shiftElse := frameShift_of_not_large_leaf
      frameRef := bits_eq_slice (by omega) (by omega)
      frameRefBound := hbound
      base := hbase
      aligned := by rw [hbase, Nat.mul_mod_left]
      below := by rw [hbase]; exact mul_two_pow_lt_of_lt hsh hbound }

/-! ### The bits of an encoded entry -/

/-- The flag that stands at bit `i` of an entry of level `L` and form `f` (30_encoding.md R311 to R317); the bits that no
flag has are those of the frame reference and the zeros. -/
def EntryFields.flagAt (x : EntryFields) (L : Level) (f : Form) : Nat → Bool
  | 0 => x.present
  | 1 => x.writable
  | 2 => x.userAccessible
  | 3 => x.writeThrough
  | 4 => x.cacheDisable
  | 5 => x.accessed
  | 6 => decide (f = .leaf) && x.dirty
  | 7 => decide (f = .leaf) && (decide (L ≠ .l1) || x.pat)
  | 8 => decide (f = .leaf) && x.global
  | 12 => decide (f = .leaf) && decide (L ≠ .l1) && x.pat
  | 63 => x.executeDisable
  | _ => false

theorem testBit_placeBit (b : Bool) (j i : Nat) : (placeBit b j).testBit i = (decide (i = j) && b) := by
  cases b with
  | false => simp [placeBit]
  | true =>
    rw [placeBit, Bool.toNat_true, Nat.one_shiftLeft, Nat.testBit_two_pow, Bool.and_true, decide_eq_decide]
    exact eq_comm

/-- Between PAT of a large leaf at bit 12 and the execute-disable bit 63 no flag stands. -/
theorem EntryFields.flagAt_eq_false (x : EntryFields) (L : Level) (f : Form) {i : Nat} (hlo : 13 ≤ i) (hhi : i < 63) :
    x.flagAt L f i = false := by
  unfold flagAt
  split
  case h_12 => rfl
  all_goals omega

/-- A frame reference of `M - sh` bits, placed at the shift `sh`, has no bit at `M` or above. -/
theorem testBit_sub_eq_false_of_le {r M sh i : Nat} (h : r < 2 ^ (M - sh)) (hi : M ≤ i) :
    r.testBit (i - sh) = false :=
  Nat.testBit_eq_false_of_lt (h.trans_le (Nat.pow_le_pow_right (by decide) (by omega)))

section EncodeEntry

variable {M : Nat} {L : Level} {f : Form} {x : EntryFields}
  (hl4 : L = .l4 → f = .table) (hl1 : L = .l1 → f = .leaf) (href : x.frameRef < 2 ^ (M - frameShift L f))

include hl4 in
/-- PAT of a large leaf stands at bit 12, below that leaf's frame; at the other levels and forms bit 12 is the frame's. -/
theorem flagAt_eq_false_of_frameShift_le {i : Nat} (hlo : frameShift L f ≤ i) (hhi : i < 63) :
    x.flagAt L f i = false := by
  rcases ((le_frameShift L f).trans hlo).eq_or_lt with rfl | hgt
  · cases L <;> cases f <;> simp_all [EntryFields.flagAt, frameShift]
  · exact x.flagAt_eq_false L f hgt hhi

include hl4 hl1

/-- Every bit of an encoded entry is a flag or a bit of the frame reference. -/
theorem getLsbD_encodeEntry {i : Nat} (hi : i < 64) :
    (encodeEntry L f x).getLsbD i =
      (x.flagAt L f i || (decide (frameShift L f ≤ i) && x.frameRef.testBit (i - frameShift L f))) := by
  unfold encodeEntry
  rw [BitVec.getLsbD_ofNat, Nat.testBit_or, Nat.testBit_shiftLeft, decide_eq_true hi, Bool.true_and]
  congr 1
  cases L with
  | l4 =>
    obtain rfl := hl4 rfl
    simp only [Nat.testBit_or, testBit_placeBit, Nat.zero_testBit]
    fun_cases x.flagAt .l4 .table i <;> simp_all
  | l1 =>
    obtain rfl := hl1 rfl
    simp only [Nat.testBit_or, testBit_placeBit]
    fun_cases x.flagAt .l1 .leaf i <;> simp_all
  | l3 | l2 =>
    cases f <;> simp only [Nat.testBit_or, testBit_placeBit, Nat.zero_testBit]
    case table => fun_cases x.flagAt _ .table i <;> simp_all
    case leaf => fun_cases x.flagAt _ .leaf i <;> simp_all

theorem getLsbD_encodeEntry_of_lt {i : Nat} (hi : i < frameShift L f) :
    (encodeEntry L f x).getLsbD i = x.flagAt L f i := by
  have hshift := frameShift_le L f
  rw [getLsbD_encodeEntry hl4 hl1 (by omega), decide_eq_false hi.not_ge, Bool.false_and, Bool.or_false]

theorem getLsbD_encodeEntry_of_le {i : Nat} (hlo : frameShift L f ≤ i) (hhi : i < 63) :
    (encodeEntry L f x).getLsbD i = x.frameRef.testBit (i - frameShift L f) := by
  rw [getLsbD_encodeEntry hl4 hl1 (by omega), flagAt_eq_false_of_frameShift_le hl4 hlo hhi, decide_eq_true hlo,
    Bool.true_and, Bool.false_or]

/-- Below bit 12 every level and form has flags only. -/
theorem getLsbD_encodeEntry_of_lt_12 {i : Nat} (hi : i < 12) : (encodeEntry L f x).getLsbD i = x.flagAt L f i :=
  getLsbD_encodeEntry_of_lt hl4 hl1 (hi.trans_le (le_frameShift L f))

theorem getLsbD_encodeEntry_ps (hL : L ≠ .l1) : (encodeEntry L f x).getLsbD 7 = decide (f = .leaf) := by
  rw [getLsbD_encodeEntry_of_lt_12 hl4 hl1 (by decide), EntryFields.flagAt, decide_eq_true hL, Bool.true_or,
    Bool.and_true]

/-- PAT of an encoded leaf is at the bit of its level (30_encoding.md R311 to R317). -/
theorem getLsbD_encodeEntry_pat (hf : f = .leaf) :
    (encodeEntry L f x).getLsbD (if L = .l1 then 7 else 12) = x.pat := by
  subst hf
  cases L with
  | l4 => exact absurd (hl4 rfl) (by decide)
  | l1 | l2 | l3 => exact getLsbD_encodeEntry_of_lt hl4 hl1 (by decide)

/-- PS of an encoded entry agrees with its form (41_translation.md R439), so the entry has that form again. -/
theorem isLeaf_encodeEntry : IsLeaf L (encodeEntry L f x) ↔ f = .leaf := by
  have hps (hL : L ≠ .l1) := getLsbD_encodeEntry_ps (x := x) hl4 hl1 hL
  cases L with
  | l4 => simp [IsLeaf, hl4 rfl]
  | l1 => simp [IsLeaf, hl1 rfl]
  | l3 | l2 => rw [IsLeaf, hps (by decide), decide_eq_true_iff]; simp

theorem form_encodeEntry : form L (encodeEntry L f x) = f := by
  cases f with
  | leaf => exact (form_eq_leaf_iff L _).mpr ((isLeaf_encodeEntry hl4 hl1).mpr rfl)
  | table => exact (form_eq_table_iff L _).mpr ((isLeaf_encodeEntry hl4 hl1).not.mpr (by decide))

include href

theorem getLsbD_encodeEntry_executeDisable (hmax : M ≤ 52) : (encodeEntry L f x).getLsbD 63 = x.executeDisable := by
  rw [getLsbD_encodeEntry hl4 hl1 (by decide), testBit_sub_eq_false_of_le href (by omega), Bool.and_false,
    Bool.or_false, EntryFields.flagAt]

theorem frameRef_encodeEntry (hmax : M ≤ 52) : frameRef M L (encodeEntry L f x) = x.frameRef := by
  rw [frameRef, form_encodeEntry hl4 hl1]
  apply Nat.eq_of_testBit_eq
  intro j
  rw [testBit_bits, BitVec.testBit_toNat]
  rcases Nat.lt_or_ge j (M - frameShift L f) with hj | hj
  · rw [decide_eq_true hj, Bool.true_and, getLsbD_encodeEntry_of_le hl4 hl1 (by omega) (by omega),
      Nat.add_sub_cancel_left]
  · have habove := testBit_sub_eq_false_of_le href (i := frameShift L f + j) (by omega)
    rw [Nat.add_sub_cancel_left] at habove
    rw [decide_eq_false hj.not_gt, Bool.false_and, habove]

/-- No bit that must be 0 is set in an encoded entry (41_translation.md R439). -/
theorem getLsbD_encodeEntry_of_mustBeZero (hmin : 32 ≤ M) (hmax : M ≤ 52) {i : Nat}
    (h : MustBeZero M L (encodeEntry L f x) i) : (encodeEntry L f x).getLsbD i = false := by
  have hshift := frameShift_le L f
  have hleaf := isLeaf_encodeEntry (x := x) hl4 hl1
  rcases h with ⟨hlo, hhi⟩ | ⟨rfl, rfl⟩ | ⟨rfl, hps, hlo, hhi⟩ | ⟨rfl, hps, hlo, hhi⟩
  · rw [getLsbD_encodeEntry_of_le hl4 hl1 (by omega) (by omega), testBit_sub_eq_false_of_le href hlo]
  · obtain rfl := hl4 rfl
    exact getLsbD_encodeEntry_of_lt hl4 hl1 (by decide)
  · obtain rfl := hleaf.mp (.inr ⟨.inr rfl, hps⟩)
    rw [getLsbD_encodeEntry_of_lt hl4 hl1 (Nat.lt_succ_of_le hhi), x.flagAt_eq_false _ _ hlo (by omega)]
  · obtain rfl := hleaf.mp (.inr ⟨.inl rfl, hps⟩)
    rw [getLsbD_encodeEntry_of_lt hl4 hl1 (Nat.lt_succ_of_le hhi), x.flagAt_eq_false _ _ hlo (by omega)]

theorem faulty_encodeEntry (hmin : 32 ≤ M) (hmax : M ≤ 52) : faulty M L (encodeEntry L f x) = false := by
  rw [Bool.eq_false_iff, ne_eq, faulty_iff hmax]
  rintro ⟨i, hset, hzero⟩
  rw [getLsbD_encodeEntry_of_mustBeZero hl4 hl1 href hmin hmax hzero] at hset
  exact Bool.false_ne_true hset

theorem reservedBits_encodeEntry (hmin : 32 ≤ M) (hmax : M ≤ 52) : reservedBits M L (encodeEntry L f x) = 0 :=
  bne_eq_false_iff_eq.mp (faulty_encodeEntry hl4 hl1 href hmin hmax)

end EncodeEntry

/-! ### The address-width check -/

/-- `canonical48` of 41_translation.md R429: bits 63:47 are all that the quotient by 2^47 leaves of a 64-bit address. -/
theorem canonical_48_iff (va : Word) :
    canonical 48 va = true ↔ va.toNat / 2 ^ 47 = 0 ∨ va.toNat / 2 ^ 47 = 0x1FFFF := by
  have htop : bits va.toNat 47 17 = va.toNat / 2 ^ 47 := by
    rw [bits_eq_div_mod]
    exact Nat.mod_eq_of_lt (by omega)
  simp [canonical, htop]

theorem State.acceptsVa_iff {s : State} (h : s.cfgVaBits = 48) (va : Word) :
    s.acceptsVa va = true ↔ va.toNat / 2 ^ 47 = 0 ∨ va.toNat / 2 ^ 47 = 0x1FFFF := by
  rw [State.acceptsVa, h]
  exact canonical_48_iff va

theorem State.beginWalk_of_acceptsVa {s : State} {va : Word} (h : s.acceptsVa va = true) (root : Word) :
    s.beginWalk root va = { s with walk := some (firstWalkFrame root va) } := if_pos h

theorem State.beginWalk_of_not_acceptsVa {s : State} {va : Word} (h : ¬ s.acceptsVa va = true) (root : Word) :
    s.beginWalk root va = answered s (failed 1 (.addressWidthViolation va)) := if_neg h

/-- RESOLVE in an idle block starts a walk (41_translation.md R430). -/
theorem exec_resolve_of_idle {s : State} (h : s.phase = .idle) (root va : Word) :
    exec (.resolve root va) s = .next (s.beginWalk root va) :=
  State.startCommand_of_idle h fun s => s.beginWalk root va

end Sys2Proof.Machine

namespace Sys2Proof.Certificates

open Sys2Proof.Machine Sys2Proof.Safety

/-- Settles O19. The flags are those of any decoded entry (`flagsAre_decodeEntry`), read at the bits where the encoding
placed them; the frame reference ends below bit `M`, so it meets no reserved bit. -/
theorem entryRoundTrip : Obligations.EntryRoundTrip := by
  intro M L f t i x hmin hmax hl4 hl1 href e
  have hflags : FlagsAre L (encodeEntry L f x) e := flagsAre_decodeEntry M L t i (encodeEntry L f x)
  have hleaf : IsLeaf L (encodeEntry L f x) ↔ f = .leaf := isLeaf_encodeEntry hl4 hl1
  have hform : form L (encodeEntry L f x) = f := form_encodeEntry hl4 hl1
  have hlow {j : Nat} (hj : j < 12) : (encodeEntry L f x).getLsbD j = x.flagAt L f j :=
    getLsbD_encodeEntry_of_lt_12 hl4 hl1 hj
  refine ⟨hform, frameRef_encodeEntry hl4 hl1 href hmax, congrArg (frameShift L) hform,
    reservedBits_encodeEntry hl4 hl1 href hmin hmax, faulty_encodeEntry hl4 hl1 href hmin hmax,
    hflags.present.trans (hlow (by decide)), hflags.writable.trans (hlow (by decide)),
    hflags.userAccessible.trans (hlow (by decide)), hflags.writeThrough.trans (hlow (by decide)),
    hflags.cacheDisable.trans (hlow (by decide)), hflags.accessed.trans (hlow (by decide)),
    hflags.executeDisable.trans (getLsbD_encodeEntry_executeDisable hl4 hl1 href hmax), ?pageSize, ?leaf, ?table⟩
  case pageSize =>
    rw [hflags.pageSize]
    split
    · rfl
    · next hL => rw [getLsbD_encodeEntry_ps hl4 hl1 hL]
  case leaf =>
    intro hf
    have hdirty := hflags.leafDirty (hleaf.mpr hf)
    have hglobal := hflags.leafGlobal (hleaf.mpr hf)
    have hpat := hflags.leafPat (hleaf.mpr hf)
    rw [getLsbD_encodeEntry_pat hl4 hl1 hf] at hpat
    rw [hlow (by decide), hf] at hdirty hglobal
    exact ⟨hdirty, hglobal, hpat⟩
  case table =>
    intro hf
    exact hflags.tableAbsent (hleaf.not.mpr (by simp [hf]))

/-- Settles O14: the fields of `splitAddress` are the slices that the rule names, whatever the other bits are. -/
theorem splitAnswersTheThreeViews : Obligations.SplitAnswersTheThreeViews :=
  fun va _ hidle => ⟨splitAddress va, exec_split_of_idle hidle va, splitIs_splitAddress va⟩

/-- Settles O15: a leaf's own flags follow the form, which follows the level and bit 7 (`form_eq_leaf_iff`). -/
theorem entryFlagsFollowTheLayout : Obligations.EntryFlagsFollowTheLayout := flagsAre_decodeEntry

/-- Settles O16: the frame reference has `M - sh` bits, so its base has `M` bits and fits a 64-bit word. -/
theorem entryFrameIsAlignedBelowM : Obligations.EntryFrameIsAlignedBelowM :=
  fun _ L t i raw hmin hmax => frameIs_decodeEntry hmin hmax L t i raw

/-- Settles O20: the check accepts exactly the canonical addresses, and both outcomes come before the walk's first read. -/
theorem resolveChecksTheAddressWidth : Obligations.ResolveChecksTheAddressWidth := by
  intro root va s hidle hbits
  rw [exec_resolve_of_idle hidle, ← State.acceptsVa_iff hbits]
  exact ⟨fun haccepted => congrArg _ (State.beginWalk_of_acceptsVa haccepted root),
    fun hrejected => congrArg _ (State.beginWalk_of_not_acceptsVa hrejected root)⟩

end Sys2Proof.Certificates

/-!
Segment descriptors (spec/43_segment_descriptors.md): the dispatch table on the S bit and the type nibble (R550), the common
fields (R552), the fields of each kind (R553 to R557) and the size it reports (R559).
-/

namespace Sys2Proof

/-- Two fields put together read as a two-digit number. -/
theorem toNat_append_eq_add {m n : Nat} (hi : BitVec m) (lo : BitVec n) :
    (hi ++ lo).toNat = hi.toNat * 2 ^ n + lo.toNat := by
  rw [BitVec.toNat_append, ← Nat.shiftLeft_add_eq_or_of_lt lo.isLt, Nat.shiftLeft_eq]

end Sys2Proof

namespace Sys2Proof.Machine

open Sys2Proof.Safety

/-! ### The tests of the dispatch table -/

/-- A clear bit 3 under a set S bit: the lower half of the codes with S (30_encoding.md R323). -/
theorem dataTest_iff : ∀ c : BitVec 5, (bit c 4 && !bit c 3) = true ↔ 0x10 ≤ c.toNat ∧ c.toNat ≤ 0x17 := by decide

/-- A set bit 3 under a set S bit: the upper half of the codes with S (30_encoding.md R323). -/
theorem codeTest_iff : ∀ c : BitVec 5, (bit c 4 && bit c 3) = true ↔ 0x18 ≤ c.toNat := by decide

/-- Among the system types the TSS mask matches the call gate's 0xF too, so R550 tests for the call gate first. -/
theorem tssMask_iff : ∀ c : BitVec 5, c.toNat < 0x10 →
    ((c &&& 0x9 == 0x9) = true ↔ c.toNat = 0x0F ∨ c.toNat = 0x09 ∨ c.toNat = 0x0B ∨ c.toNat = 0x0D) := by decide

theorem beq_ofNat_iff_toNat_eq (c : BitVec 5) {n : Nat} (hn : n < 32) : (c == BitVec.ofNat 5 n) = true ↔ c.toNat = n := by
  rw [beq_iff_eq, ← BitVec.toNat_inj, BitVec.toNat_ofNat, Nat.mod_eq_of_lt hn]

/-- The tests of `classify` in their order are the rows of the table: what the earlier tests have taken away, the S bit and
the call gate, leaves the TSS mask its three types. -/
theorem classify_eq_kindByC (d : Word) : classify d = kindByC (slice d.toNat 44 40) := by
  rw [← toNat_field_eq_slice d (n := 5) (by decide) (by decide)]
  refine ite_congr (propext (dataTest_iff _)) (fun _ => rfl) fun hdata => ?_
  refine ite_congr (propext (codeTest_iff _)) (fun _ => rfl) fun hcode => ?_
  refine ite_congr (propext (beq_ofNat_iff_toNat_eq _ (by decide))) (fun _ => rfl) fun _ => ?_
  refine ite_congr (propext (beq_ofNat_iff_toNat_eq _ (by decide))) (fun _ => rfl) fun hgate => ?_
  refine ite_congr (propext ?_) (fun _ => rfl) fun _ => rfl
  rw [tssMask_iff _ (by omega), or_iff_right hgate]

/-- R559, by the kind. -/
theorem SegKind.size_eq_ite (k : SegKind) : k.size = if k = .tss ∨ k = .callgate then 16 else 8 := by
  cases k <;> rfl

/-! ### The decoded fields -/

theorem commonIs_segCommon (d : Word) : CommonIs d.toNat (segCommon d) where
  base := by
    have hsplit : (segCommon d).base = field d 56 8 ++ field d 32 8 ++ field d 16 16 := rfl
    rw [hsplit, toNat_append_eq_add, toNat_append_eq_add,
      toNat_field_eq_slice d (hi := 63) (by decide) (by decide), toNat_field_eq_slice d (hi := 39) (by decide) (by decide),
      toNat_field_eq_slice d (hi := 31) (by decide) (by decide)]
    omega
  limit := by
    have hsplit : (segCommon d).limit = field d 48 4 ++ field d 0 16 := rfl
    rw [hsplit, toNat_append_eq_add, toNat_field_eq_slice d (hi := 51) (by decide) (by decide),
      toNat_field_eq_slice d (hi := 15) (by decide) (by decide)]
  type := toNat_field_eq_slice d (by decide) (by decide)
  g := (BitVec.testBit_toNat d).symm
  present := (BitVec.testBit_toNat d).symm
  l := (BitVec.testBit_toNat d).symm
  dpl := toNat_field_eq_slice d (by decide) (by decide)

/-- The low 8 bytes of a 16-byte slot, which an 8-byte kind looks at alone. -/
theorem toNat_lowHalf (b : Word128) : (field b 0 64).toNat = b.toNat % 2 ^ 64 := by
  rw [field_toNat, bits_eq_div_mod, Nat.pow_zero, Nat.div_one]

/-- The common fields of every kind are those of the low half. -/
theorem commonIs_lowHalf (b : Word128) : CommonIs (b.toNat % 2 ^ 64) (segCommon (field b 0 64)) :=
  toNat_lowHalf b ▸ commonIs_segCommon (field b 0 64)

theorem segIs_decodeSeg (k : SegKind) (b : Word128) : SegIs k b (decodeSeg k b) := by
  cases k with
  | null => exact ⟨toNat_lowHalf b, commonIs_segCommon _⟩
  | data => exact ⟨toNat_lowHalf b, commonIs_segCommon _, rfl, rfl, rfl⟩
  | code => exact ⟨toNat_lowHalf b, commonIs_segCommon _, rfl, rfl, rfl⟩
  | tss =>
    exact ⟨rfl, commonIs_lowHalf b, toNat_field_eq_slice b (by decide) (by decide), toNat_append_eq_add _ _⟩
  | callgate => exact ⟨rfl, commonIs_lowHalf b⟩

@[simp] theorem kind_decodeSeg (k : SegKind) (b : Word128) : (decodeSeg k b).kind = k := by
  cases k <;> rfl

@[simp] theorem size_decodeSeg (k : SegKind) (b : Word128) : (decodeSeg k b).size = k.size :=
  congrArg SegKind.size (kind_decodeSeg k b)

end Sys2Proof.Machine

namespace Sys2Proof.Certificates

open Sys2Proof.Machine

/-- Settles O33: the rows of the table are the tests of `classify` in their order (`classify_eq_kindByC`). -/
theorem descriptorKindFollowsTheDispatchTable : Obligations.DescriptorKindFollowsTheDispatchTable :=
  fun d => ⟨classify_eq_kindByC d, fun k _ => k.size_eq_ite⟩

/-- Settles O34: each kind's fields are slices of the 16 bytes, and its size is its kind's. -/
theorem descriptorFieldsFollowTheLayout : Obligations.DescriptorFieldsFollowTheLayout :=
  fun k b => ⟨segIs_decodeSeg k b, (size_decodeSeg k b).trans k.size_eq_ite⟩

end Sys2Proof.Certificates

/-!
Gate descriptors (spec/44_gate_descriptors.md): the fields of a gate and the command GATE.DECODE that answers with them
(R600, R601).
-/

namespace Sys2Proof.Machine

open Sys2Proof.Safety

/-- Every field of a decoded gate is a slice of its 16 bytes, the offset three of them side by side (R600). -/
theorem gateIs_decodeGate (q : Word128) : GateIs q (decodeGate q) where
  offset := by
    have hsplit : (decodeGate q).offset = field q 64 32 ++ field q 48 16 ++ field q 0 16 := rfl
    rw [hsplit, toNat_append_eq_add, toNat_append_eq_add,
      toNat_field_eq_slice q (hi := 95) (by decide) (by decide), toNat_field_eq_slice q (hi := 63) (by decide) (by decide),
      toNat_field_eq_slice q (hi := 15) (by decide) (by decide)]
    omega
  segmentSelector := toNat_field_eq_slice q (by decide) (by decide)
  interruptStackTable := toNat_field_eq_slice q (by decide) (by decide)
  type := toNat_field_eq_slice q (by decide) (by decide)
  dpl := toNat_field_eq_slice q (by decide) (by decide)
  present := rfl
  raw := rfl

/-- GATE.DECODE in an idle block answers with the gate and does nothing else (R601). -/
theorem exec_gateDecode_of_idle {s : State} (h : s.phase = .idle) (q : Word128) :
    exec (.gateDecode q) s = .next (answered s (okay (.gate (decodeGate q)))) :=
  State.startCommand_of_idle h fun s => s.complete (.gate (decodeGate q))

end Sys2Proof.Machine

namespace Sys2Proof.Certificates

open Sys2Proof.Machine

/-- Settles O36: the fields of `decodeGate` are the slices that R600 names, and GATE.DECODE looks at none of them. -/
theorem gateDecodeAnswersTheGate : Obligations.GateDecodeAnswersTheGate :=
  fun q _ hidle => ⟨decodeGate q, exec_gateDecode_of_idle hidle q, gateIs_decodeGate q⟩

end Sys2Proof.Certificates

/-!
Runs of several steps. A run is a chain of steps that each answer a next state; while a command reads, the chain is followed
up to the read log, which only grows (spec/20_memory.md R220) and which no operation looks at (10_state.md R127).
-/

namespace Sys2Proof.Machine

open Sys2Proof.Safety

/-! ### Runs step by step -/

theorem runsTo_zero (s : State) : RunsTo 0 s s := rfl

theorem runsTo_succ_iff {n : Nat} {s u : State} : RunsTo (n + 1) s u ↔ ∃ t, step s = .next t ∧ RunsTo n t u := by
  have hcore : core.step s = step s := rfl
  cases hstep : step s <;> simp [RunsTo, Host.Core.run, hcore.trans hstep]

theorem runsTo_trans {m n : Nat} {s t u : State} (h : RunsTo m s t) (h' : RunsTo n t u) : RunsTo (m + n) s u := by
  induction m generalizing s with
  | zero =>
    cases h
    rwa [Nat.zero_add]
  | succ m ih =>
    obtain ⟨v, hstep, hrun⟩ := runsTo_succ_iff.mp h
    rw [Nat.add_right_comm]
    exact runsTo_succ_iff.mpr ⟨v, hstep, ih hrun⟩

/-! ### States up to their read log -/

/-- The state with another read log. -/
def State.withReadLog (s : State) (log : List ReadEvent) : State := { s with readLog := log }

section WithReadLog

variable (s : State) (log : List ReadEvent)

theorem State.withReadLog_sampleAbort : s.sampleAbort.withReadLog log = (s.withReadLog log).sampleAbort := by
  unfold State.sampleAbort State.withReadLog
  dsimp only
  split <;> rfl

theorem State.withReadLog_endRange (out : List Byte) :
    (s.endRange out).withReadLog log = (s.withReadLog log).endRange out := by
  unfold State.endRange State.withReadLog
  dsimp only
  split <;> rfl

theorem State.withReadLog_rangeLoop (r : RangeFrame) (afterRead : Bool) :
    (s.rangeLoop r afterRead).withReadLog log = (s.withReadLog log).rangeLoop r afterRead := by
  have haccepts : (s.withReadLog log).acceptsVa r.cur = s.acceptsVa r.cur := rfl
  unfold State.rangeLoop
  rw [haccepts]
  split
  · exact s.withReadLog_endRange log r.out
  · split
    · cases afterRead
      · rfl
      · exact State.withReadLog_sampleAbort _ log
    · rfl

theorem State.withReadLog_endWalk (t : TranslationResult) :
    (s.endWalk t).withReadLog log = (s.withReadLog log).endWalk t := by
  have hrange : (s.withReadLog log).range = s.range := rfl
  unfold State.endWalk
  rw [hrange]
  split
  · rfl
  · split
    · exact State.withReadLog_sampleAbort _ log
    · rfl

theorem State.withReadLog_afterDataRead (r : RangeFrame) (c : CopyState) (n : Nat) (v : Word) :
    (s.afterDataRead r c n v).withReadLog log = (s.withReadLog log).afterDataRead r c n v := by
  unfold State.afterDataRead
  dsimp only
  split
  · exact s.withReadLog_rangeLoop log _ true
  · exact State.withReadLog_sampleAbort _ log

theorem withReadLog_visitEntry (f : WalkFrame) (raw : Word) :
    (visitEntry s f raw).withReadLog log = visitEntry (s.withReadLog log) f raw := by
  have hm : (s.withReadLog log).m = s.m := rfl
  unfold visitEntry
  rw [hm]
  dsimp only
  split
  · exact s.withReadLog_endWalk log _
  · split
    · exact s.withReadLog_endWalk log _
    · exact State.withReadLog_sampleAbort _ log

end WithReadLog

/-- One step that ends in `t` but for the reads it adds to the log, whatever the log was. -/
def LoggedStep (s t : State) : Prop :=
  ∀ log, ∃ events, step (s.withReadLog log) = .next (t.withReadLog (log ++ events))

/-- Some number of such steps. -/
def LoggedRun : State → State → Prop := Relation.ReflTransGen LoggedStep

/-- A chain of logged steps is a run that adds some events to the log. -/
theorem LoggedRun.runsTo {s t : State} (h : LoggedRun s t) (log : List ReadEvent) :
    ∃ n events, RunsTo n (s.withReadLog log) (t.withReadLog (log ++ events)) := by
  induction h using Relation.ReflTransGen.head_induction_on generalizing log with
  | refl => exact ⟨0, [], by rw [List.append_nil]; exact runsTo_zero _⟩
  | head hstep _ ih =>
    obtain ⟨events, hstep⟩ := hstep log
    obtain ⟨n, more, hrun⟩ := ih (log ++ events)
    exact ⟨n + 1, events ++ more, runsTo_succ_iff.mpr ⟨_, hstep, by rwa [List.append_assoc] at hrun⟩⟩

/-! ### The other agents, undisturbed: the image answers and no abort is set -/

/-- A read that the image answers with a value goes on with that value, one event more in the log. -/
theorem memRead_withReadLog {s : State} {a v : Word} {n : ReadSize} {log : List ReadEvent} (hs : s.answers = [])
    (h : imageAnswer s.mem s.inaccessible a n = .value v) (k : Word → State → Fetched) :
    memRead (s.withReadLog log) a n k =
      k v (s.withReadLog (log ++ [{ addr := a, size := n, answer := some v }])) := by
  have hanswer : readerAnswer (s.withReadLog log) a n = (.value v, []) := by
    simp [readerAnswer, State.withReadLog, hs, h]
  rw [memRead, hanswer]
  simp [State.recordRead, State.withReadLog, hs]

/-- The bytes of a value that the image answers are the bytes of the image (20_memory.md R200). -/
theorem bytesLE_of_imageAnswer {m : Memory} {inaccessible : List Nat} {a v : Word} {n : ReadSize}
    (h : imageAnswer m inaccessible a n = .value v) : bytesLE v.toNat n.bytes = m.bytes a n.bytes := by
  unfold imageAnswer at h
  split at h
  · cases h
  · cases h
    have hle : le (m.bytes a n.bytes) < 2 ^ 64 :=
      calc le (m.bytes a n.bytes) < 2 ^ (8 * n.bytes) := by simpa using le_lt (m.bytes a n.bytes)
        _ ≤ 2 ^ 64 := Nat.pow_le_pow_right (by decide) (by cases n <;> decide)
    rw [BitVec.toNat_ofNat, Nat.mod_eq_of_lt hle]
    simpa using bytesLE_le (m.bytes a n.bytes)

theorem exists_imageAnswer (m : Memory) (a : Word) (n : ReadSize) : ∃ v, imageAnswer m [] a n = .value v :=
  ⟨_, rfl⟩

theorem imageAnswer_of_imageEntry {s : State} {a raw : Word} (h : imageEntry s a = .ok raw) :
    imageAnswer s.mem s.inaccessible a .b8 = .value raw := by
  unfold imageEntry at h
  split at h
  · rename_i v hv
    cases h
    exact hv
  all_goals cases h

theorem State.sampleAbort_of_aborts_nil {s : State} (h : s.aborts = []) : s.sampleAbort = s := by
  rw [State.sampleAbort, h]

end Sys2Proof.Machine

/-!
A walk that succeeds (spec/41_translation.md R430): the entry rows carry out one iteration of the walk's loop each, so the
machine's walk ends with the procedure's result; and what a walk maps is a whole page, the same for all its addresses.
-/

namespace Sys2Proof

theorem Level.toNat_pos (L : Level) : 0 < L.toNat := by
  cases L <;> decide

end Sys2Proof

namespace Sys2Proof.Machine

open Sys2Proof.Safety

/-! ### The results of a walk -/

/-- The result of a walk that stops at a not-present entry, the last of `es` (R433). -/
def unmappedResult (es : List Entry) : TranslationResult where
  pageBase := none
  pageSize := none
  pageOffset := none
  entries := es

/-- The result of a walk that stops at the leaf `e` of level `L`, below the entries `es` (R432). -/
def mappedResult (sp : AddressSplit) (L : Level) (es : List Entry) (e : Entry) : TranslationResult where
  pageBase := some e.base
  pageSize := some (2 ^ e.frameShift)
  pageOffset := some (levelOffset sp L)
  entries := es ++ [e]

/-- The WALK frame one level down, behind the entry `raw` (R430). -/
def WalkFrame.descend (f : WalkFrame) (M : Nat) (raw : Word) : WalkFrame :=
  { f with level := below f.level
           tableBase := BitVec.ofNat 64 (frameRef M f.level raw <<< 12)
           entries := f.entries ++ [f.entry M raw] }

/-! ### An entry row is one iteration of the loop -/

section VisitEntry

variable {s : State} {f : WalkFrame} {raw : Word}

theorem visitEntry_of_not_present (hp : raw.getLsbD 0 = false) :
    visitEntry s f raw = s.endWalk (unmappedResult (f.entries ++ [f.entry s.m raw])) :=
  if_pos (by rw [show (f.entry s.m raw).present = false from hp]; rfl)

theorem visitEntry_of_leaf (hp : raw.getLsbD 0 = true) (hf : form f.level raw = .leaf) :
    visitEntry s f raw = s.endWalk (mappedResult f.split f.level f.entries (f.entry s.m raw)) :=
  (if_neg (by rw [show (f.entry s.m raw).present = true from hp]; decide)).trans (if_pos hf)

theorem visitEntry_of_table (hp : raw.getLsbD 0 = true) (hf : form f.level raw = .table) :
    visitEntry s f raw = State.sampleAbort { s with walk := some (f.descend s.m raw) } :=
  (if_neg (by rw [show (f.entry s.m raw).present = true from hp]; decide)).trans
    (if_neg (by rw [show (f.entry s.m raw).form = .table from hf]; decide))

theorem walkUnmapped_eq_visitEntry (hwalk : s.walk = some f) (hp : raw.getLsbD 0 = false) :
    walkUnmapped f.level raw s = .next (visitEntry s f raw) := by
  rw [visitEntry_of_not_present hp]
  exact State.inWalk_of_level _ hwalk rfl

theorem walkMapped_eq_visitEntry (hwalk : s.walk = some f) (hp : raw.getLsbD 0 = true) (hf : form f.level raw = .leaf) :
    walkMapped f.level raw s = .next (visitEntry s f raw) := by
  rw [visitEntry_of_leaf hp hf]
  exact State.inWalk_of_level _ hwalk rfl

theorem walkDescend_eq_visitEntry (hwalk : s.walk = some f) (hp : raw.getLsbD 0 = true)
    (hf : form f.level raw = .table) : walkDescend f.level (below f.level) raw s = .next (visitEntry s f raw) := by
  rw [visitEntry_of_table hp hf]
  exact State.inWalk_of_level _ hwalk rfl

end VisitEntry

/-- The row that an entry decodes to, by P and bit 7 (30_encoding.md R319), does what the loop's body does with it. -/
theorem exec_entryRow {s : State} {f : WalkFrame} (hwalk : s.walk = some f) (raw : Word) :
    exec (entryRow f.level raw) s = .next (visitEntry s f raw) := by
  unfold entryRow
  cases hp : bit raw 0 with
  | false =>
    have h := walkUnmapped_eq_visitEntry hwalk hp
    cases hL : f.level with
    | l4 | l1 => rw [hL] at h; exact h
    | l3 | l2 => rw [hL] at h; cases bit raw 7 <;> exact h
  | true =>
    have hleaf := walkMapped_eq_visitEntry hwalk hp
    have htable := walkDescend_eq_visitEntry hwalk hp
    cases hL : f.level with
    | l4 => rw [hL] at htable; cases bit raw 7 <;> exact htable rfl
    | l3 | l2 =>
      rw [hL] at hleaf htable
      cases hps : bit raw 7
      · exact htable (by rw [form, hps]; rfl)
      · exact hleaf (by rw [form, hps]; rfl)
    | l1 => rw [hL] at hleaf; exact hleaf rfl

/-- The walker's step with an entry that the image answers (R431). -/
theorem loggedStep_walk {s : State} {f : WalkFrame} {raw : Word} (hanswers : s.answers = []) (hwalk : s.walk = some f)
    (h : imageEntry s (entryAddress f.tableBase (levelIndex f.split f.level)) = .ok raw) :
    LoggedStep s (visitEntry s f raw) := by
  intro log
  have hfetch : fetch (s.withReadLog log) = walkStep (s.withReadLog log) f := by
    simp [fetch, State.withReadLog, hwalk]
  refine ⟨[{ addr := entryAddress f.tableBase (levelIndex f.split f.level), size := .b8, answer := some raw }], ?_⟩
  rw [step, hfetch, walkStep, memRead_withReadLog hanswers (imageAnswer_of_imageEntry h), withReadLog_visitEntry]
  exact exec_entryRow (by exact hwalk) raw

/-! ### The loop of the procedure -/

section WalkLoop

variable {s : State} {sp : AddressSplit} {n : Nat} {L : Level} {t : Word} {es : List Entry} {raw : Word}
  (hraw : imageEntry s (entryAddress t (levelIndex sp L)) = .ok raw)
include hraw

theorem walkLoop_of_not_present (hp : raw.getLsbD 0 = false) :
    walkLoop s sp (n + 1) L t es =
      .ok (unmappedResult (es ++ [decodeEntry s.m L t (levelIndex sp L) raw])) := by
  have hpresent : (decodeEntry s.m L t (levelIndex sp L) raw).present = false := hp
  rw [walkLoop, hraw]
  exact if_pos (by rw [hpresent]; rfl)

theorem walkLoop_of_leaf (hp : raw.getLsbD 0 = true) (hf : form L raw = .leaf) :
    walkLoop s sp (n + 1) L t es =
      .ok (mappedResult sp L es (decodeEntry s.m L t (levelIndex sp L) raw)) := by
  have hpresent : (decodeEntry s.m L t (levelIndex sp L) raw).present = true := hp
  rw [walkLoop, hraw]
  exact (if_neg (by rw [hpresent]; decide)).trans (if_pos hf)

theorem walkLoop_of_table (hp : raw.getLsbD 0 = true) (hf : form L raw = .table) :
    walkLoop s sp (n + 1) L t es =
      walkLoop s sp n (below L) (BitVec.ofNat 64 (frameRef s.m L raw <<< 12))
        (es ++ [decodeEntry s.m L t (levelIndex sp L) raw]) := by
  have hpresent : (decodeEntry s.m L t (levelIndex sp L) raw).present = true := hp
  have hform : (decodeEntry s.m L t (levelIndex sp L) raw).form ≠ .leaf := by
    rw [show (decodeEntry s.m L t (levelIndex sp L) raw).form = .table from hf]
    decide
  rw [walkLoop, hraw]
  exact (if_neg (by rw [hpresent]; decide)).trans (if_neg hform)

end WalkLoop

/-- What one iteration of a loop that succeeds does with its entry. -/
theorem walkLoop_succ_cases {s : State} {sp : AddressSplit} {n : Nat} {L : Level} {t : Word} {es : List Entry}
    {x : TranslationResult} (h : walkLoop s sp (n + 1) L t es = .ok x) :
    ∃ raw, imageEntry s (entryAddress t (levelIndex sp L)) = .ok raw ∧
      ((raw.getLsbD 0 = false ∧ x = unmappedResult (es ++ [decodeEntry s.m L t (levelIndex sp L) raw])) ∨
      (raw.getLsbD 0 = true ∧ form L raw = .leaf ∧
        x = mappedResult sp L es (decodeEntry s.m L t (levelIndex sp L) raw)) ∨
      (raw.getLsbD 0 = true ∧ form L raw = .table ∧
        walkLoop s sp n (below L) (BitVec.ofNat 64 (frameRef s.m L raw <<< 12))
          (es ++ [decodeEntry s.m L t (levelIndex sp L) raw]) = .ok x)) := by
  cases hraw : imageEntry s (entryAddress t (levelIndex sp L)) with
  | error e =>
    rw [walkLoop, hraw] at h
    cases h
  | ok raw =>
    refine ⟨raw, rfl, ?_⟩
    cases hp : raw.getLsbD 0 with
    | false =>
      rw [walkLoop_of_not_present hraw hp] at h
      exact .inl ⟨rfl, (Except.ok.inj h).symm⟩
    | true =>
      cases hf : form L raw with
      | leaf =>
        rw [walkLoop_of_leaf hraw hp hf] at h
        exact .inr (.inl ⟨rfl, rfl, (Except.ok.inj h).symm⟩)
      | table =>
        rw [walkLoop_of_table hraw hp hf] at h
        exact .inr (.inr ⟨rfl, rfl, h⟩)

/-! ### The machine's walk is the procedure's -/

theorem State.endWalk_setWalk (s : State) (w : Option WalkFrame) (x : TranslationResult) :
    State.endWalk { s with walk := w } x = s.endWalk x := by
  unfold State.endWalk
  dsimp only
  split
  · rfl
  · split <;> rfl

theorem toNat_below {L : Level} (h : L ≠ .l1) : (below L).toNat + 1 = L.toNat := by
  cases L with
  | l1 => exact absurd rfl h
  | l4 | l3 | l2 => rfl

/-- Where the procedure's loop succeeds, the walker's steps end the walk with its result. -/
theorem loggedRun_walk {s : State} (hanswers : s.answers = []) (haborts : s.aborts = []) {n : Nat} {f : WalkFrame}
    {x : TranslationResult} (h : walkLoop s f.split n f.level f.tableBase f.entries = .ok x) (hn : f.level.toNat ≤ n) :
    LoggedRun { s with walk := some f } (s.endWalk x) := by
  induction n generalizing f with
  | zero => exact absurd f.level.toNat_pos (by omega)
  | succ n ih =>
    obtain ⟨raw, hraw, hcases⟩ := walkLoop_succ_cases h
    have hstep : LoggedStep { s with walk := some f } (visitEntry { s with walk := some f } f raw) :=
      loggedStep_walk hanswers rfl hraw
    obtain ⟨hp, rfl⟩ | ⟨hp, hf, rfl⟩ | ⟨hp, hf, hloop⟩ := hcases
    · rw [visitEntry_of_not_present hp, State.endWalk_setWalk] at hstep
      exact .single hstep
    · rw [visitEntry_of_leaf hp hf, State.endWalk_setWalk] at hstep
      exact .single hstep
    · have hlevel : f.level ≠ .l1 := by
        intro hl
        rw [hl] at hf
        cases hf
      have hbelow := toNat_below hlevel
      rw [visitEntry_of_table hp hf, State.sampleAbort_of_aborts_nil (by exact haborts)] at hstep
      have hrun := ih (f := f.descend s.m raw) hloop (by simp only [WalkFrame.descend]; omega)
      exact .head hstep hrun

/-! ### A walk maps a whole page -/

/-- How many low bits of an address its index at level `L` leaves over: the offset in the page of a leaf there (R422). -/
def indexShift : Level → Nat
  | .l4 => 39
  | .l3 => 30
  | .l2 => 21
  | .l1 => 12

theorem toNat_levelIndex (va : Word) (L : Level) :
    (levelIndex (splitAddress va) L).toNat = va.toNat / 2 ^ indexShift L % 2 ^ 9 := by
  rw [← bits_eq_div_mod]
  cases L <;> exact field_toNat va _ _

theorem toNat_levelOffset (va : Word) {L : Level} (hL : L ≠ .l4) :
    (levelOffset (splitAddress va) L).toNat = va.toNat % 2 ^ indexShift L := by
  have hfield (n : Nat) : (field va 0 n).toNat = va.toNat % 2 ^ n := by
    rw [field_toNat, bits_eq_div_mod, Nat.pow_zero, Nat.div_one]
  cases L with
  | l4 => exact absurd rfl hL
  | l3 => exact hfield 30
  | l2 => exact (BitVec.toNat_setWidth_of_le (by decide)).trans (hfield 21)
  | l1 => exact (BitVec.toNat_setWidth_of_le (by decide)).trans (hfield 12)

/-- Addresses that differ in low bits only have the same indices above those bits. -/
theorem levelIndex_congr {va va' : Word} {k : Nat} {L : Level} (hk : k ≤ indexShift L)
    (h : va'.toNat / 2 ^ k = va.toNat / 2 ^ k) :
    levelIndex (splitAddress va') L = levelIndex (splitAddress va) L := by
  apply BitVec.eq_of_toNat_eq
  rw [toNat_levelIndex, toNat_levelIndex, ← Nat.add_sub_cancel' hk, Nat.pow_add, ← Nat.div_div_eq_div_mul,
    ← Nat.div_div_eq_div_mul, h]

theorem indexShift_below_le (L : Level) : indexShift (below L) ≤ indexShift L := by
  cases L <;> decide

theorem frameShift_eq_indexShift {L : Level} (hL : L ≠ .l4) : frameShift L .leaf = indexShift L := by
  cases L with
  | l4 => exact absurd rfl hL
  | l3 | l2 | l1 => rfl

theorem ne_l4_of_form_leaf {L : Level} {raw : Word} (h : form L raw = .leaf) : L ≠ .l4 := by
  rintro rfl
  cases h

/-- The result `x` maps the page of `2^k` bytes in which `va` stands to the physical page at `base` (R432). -/
structure MapsPage (x : TranslationResult) (va base : Word) (k : Nat) : Prop where
  pageBase : x.pageBase = some base
  pageSize : x.pageSize = some (2 ^ k)
  pageOffset : ∃ offset, x.pageOffset = some offset ∧ offset.toNat = va.toNat % 2 ^ k

theorem mapsPage_mappedResult {va : Word} {L : Level} {es : List Entry} {M : Nat} {t : Word} {i : BitVec 9} {raw : Word}
    (hf : form L raw = .leaf) :
    MapsPage (mappedResult (splitAddress va) L es (decodeEntry M L t i raw)) va (decodeEntry M L t i raw).base
      (indexShift L) where
  pageBase := rfl
  pageSize := by
    rw [← frameShift_eq_indexShift (ne_l4_of_form_leaf hf), ← hf]
    rfl
  pageOffset := ⟨_, rfl, toNat_levelOffset va (ne_l4_of_form_leaf hf)⟩

/-- The loop that maps `va` maps every address of its page to the same physical page: it reads the same entries. -/
theorem walkLoop_maps_page {s : State} {va base : Word} {n : Nat} {L : Level} {t : Word} {es : List Entry}
    {x : TranslationResult} (h : walkLoop s (splitAddress va) n L t es = .ok x) (hbase : x.pageBase = some base) :
    ∃ k ≤ indexShift L, MapsPage x va base k ∧ ∀ va' : Word, va'.toNat / 2 ^ k = va.toNat / 2 ^ k →
      ∃ x', walkLoop s (splitAddress va') n L t es = .ok x' ∧ MapsPage x' va' base k := by
  induction n generalizing L t es with
  | zero =>
    cases h
    cases hbase
  | succ n ih =>
    obtain ⟨raw, hraw, ⟨-, rfl⟩ | ⟨hp, hf, rfl⟩ | ⟨hp, hf, hloop⟩⟩ := walkLoop_succ_cases h
    · cases hbase
    · cases hbase
      refine ⟨indexShift L, le_rfl, mapsPage_mappedResult hf, fun va' hva' => ?_⟩
      have hindex := levelIndex_congr le_rfl hva'
      rw [← hindex] at hraw ⊢
      exact ⟨_, walkLoop_of_leaf hraw hp hf, mapsPage_mappedResult hf⟩
    · obtain ⟨k, hk, hmaps, hpage⟩ := ih hloop
      have hkL : k ≤ indexShift L := hk.trans (indexShift_below_le L)
      refine ⟨k, hkL, hmaps, fun va' hva' => ?_⟩
      have hindex := levelIndex_congr hkL hva'
      obtain ⟨x', hloop', hmaps'⟩ := hpage va' hva'
      rw [← hindex] at hraw hloop'
      exact ⟨x', (walkLoop_of_table hraw hp hf).trans hloop', hmaps'⟩

end Sys2Proof.Machine

/-!
A READ whose bytes all translate (spec/42_linear_read.md R500, R503, R506), as a command or inside a table command: each
chunk's bytes are the image's bytes at their own translations, and chunk by chunk the loop reads the whole request.
-/

namespace Sys2Proof.Machine

open Sys2Proof.Safety

/-! ### Translation depends on the guest only -/

section Guest

variable {s t : State} (h : t.guest = s.guest)
include h

theorem imageEntry_eq_of_guest_eq : imageEntry t = imageEntry s := by
  obtain ⟨hmem, hinaccessible, -, -, -⟩ := State.guest_eq_iff.mp h
  funext a
  rw [imageEntry, imageEntry, hmem, hinaccessible]

theorem State.m_eq_of_guest_eq : t.m = s.m := by
  obtain ⟨-, -, -, -, hm⟩ := State.guest_eq_iff.mp h
  rw [State.m, State.m, hm]

theorem walkLoop_eq_of_guest_eq : walkLoop t = walkLoop s := by
  funext sp n L tableBase es
  induction n generalizing L tableBase es with
  | zero => rfl
  | succ n ih => simp only [walkLoop, imageEntry_eq_of_guest_eq h, State.m_eq_of_guest_eq h, ih]

theorem resolveProcedure_eq_of_guest_eq : resolveProcedure t = resolveProcedure s := by
  obtain ⟨-, -, -, hva, -⟩ := State.guest_eq_iff.mp h
  funext root va
  rw [resolveProcedure, resolveProcedure, State.acceptsVa, State.acceptsVa, hva, walkLoop_eq_of_guest_eq h]

theorem physicalAddress_eq_of_guest_eq : physicalAddress t = physicalAddress s := by
  funext root va
  rw [physicalAddress, physicalAddress, resolveProcedure_eq_of_guest_eq h]

theorem allTranslate_iff_of_guest_eq (root va : Word) (n : Nat) : AllTranslate t root va n ↔ AllTranslate s root va n := by
  rw [AllTranslate, AllTranslate, physicalAddress_eq_of_guest_eq h]

theorem translatedBytes_iff_of_guest_eq (root va : Word) (n : Nat) (bs : List Byte) :
    TranslatedBytes t root va n bs ↔ TranslatedBytes s root va n bs := by
  rw [TranslatedBytes, TranslatedBytes, physicalAddress_eq_of_guest_eq h, (State.guest_eq_iff.mp h).1]

end Guest

/-! ### Translation inside a page -/

/-- An address that translates is accepted, and its walk maps its page. -/
theorem resolve_of_physicalAddress {s : State} {root va pa : Word} (h : physicalAddress s root va = .ok pa) :
    s.acceptsVa va = true ∧ ∃ x base, walkLoop s (splitAddress va) 4 .l4 root [] = .ok x ∧ x.pageBase = some base := by
  unfold physicalAddress resolveProcedure at h
  cases haccepts : s.acceptsVa va with
  | false => rw [haccepts] at h; cases h
  | true =>
    rw [haccepts] at h
    cases hloop : walkLoop s (splitAddress va) 4 .l4 root [] with
    | error e => rw [hloop] at h; cases h
    | ok x =>
      rw [hloop] at h
      cases hbase : x.pageBase with
      | none => simp [bind, Except.bind, hbase] at h
      | some base => exact ⟨rfl, x, base, rfl, hbase⟩

/-- The physical address of an address in a page that its walk maps (R437). -/
theorem physicalAddress_of_mapsPage {s : State} {root va base : Word} {x : TranslationResult} {k : Nat}
    (haccepts : s.acceptsVa va = true) (hloop : walkLoop s (splitAddress va) 4 .l4 root [] = .ok x)
    (hmaps : MapsPage x va base k) :
    physicalAddress s root va = .ok (base + BitVec.ofNat 64 (va.toNat % 2 ^ k)) := by
  obtain ⟨offset, hoffset, hvalue⟩ := hmaps.pageOffset
  have hresolve : resolveProcedure s root va = .ok x := (if_pos haccepts).trans hloop
  have hwidth : offset.setWidth 64 = BitVec.ofNat 64 (va.toNat % 2 ^ k) := by
    rw [← hvalue, BitVec.ofNat_toNat]
  rw [physicalAddress, hresolve]
  simp only [bind, Except.bind, hmaps.pageBase, hoffset, hwidth]
  rfl

/-- An address stays in its page of `2^k` bytes for the rest of the page, also at the end of the address space. -/
theorem toNat_add_in_page {va : Word} {k i : Nat} (hk : k ≤ 39) (hi : i < 2 ^ k - va.toNat % 2 ^ k) :
    (va + BitVec.ofNat 64 i).toNat / 2 ^ k = va.toNat / 2 ^ k ∧
      (va + BitVec.ofNat 64 i).toNat % 2 ^ k = va.toNat % 2 ^ k + i := by
  have hoffset : va.toNat % 2 ^ k + i < 2 ^ k := by omega
  have hpages : 2 ^ 64 = 2 ^ k * 2 ^ (64 - k) := by rw [← Nat.pow_add, Nat.add_sub_cancel' (by omega)]
  have hpage : va.toNat / 2 ^ k < 2 ^ (64 - k) := Nat.div_lt_of_lt_mul (hpages ▸ va.isLt)
  have hva : va.toNat + i = 2 ^ k * (va.toNat / 2 ^ k) + (va.toNat % 2 ^ k + i) := by
    rw [← Nat.add_assoc, Nat.div_add_mod]
  have hfits : va.toNat + i < 2 ^ 64 :=
    calc va.toNat + i < 2 ^ k * (va.toNat / 2 ^ k + 1) := by rw [hva, Nat.mul_add]; omega
      _ ≤ 2 ^ 64 := hpages ▸ Nat.mul_le_mul_left _ hpage
  have hsum : (va + BitVec.ofNat 64 i).toNat = va.toNat + i := by
    rw [BitVec.toNat_add, BitVec.toNat_ofNat, Nat.add_mod_mod, Nat.mod_eq_of_lt hfits]
  rw [hsum, hva, Nat.mul_add_div (Nat.two_pow_pos k), Nat.mul_add_mod, Nat.div_eq_of_lt hoffset,
    Nat.mod_eq_of_lt hoffset]
  exact ⟨rfl, rfl⟩

/-! ### The bytes of a page -/

theorem add_one_add_ofNat (a : Word) (i : Nat) : a + 1 + BitVec.ofNat 64 i = a + BitVec.ofNat 64 (i + 1) := by
  rw [Nat.add_comm i 1, BitVec.ofNat_add, ← BitVec.add_assoc]
  rfl

theorem Memory.getElem?_bytes (m : Memory) (a : Word) {n i : Nat} (hi : i < n) :
    (m.bytes a n)[i]? = some (m.read (a + BitVec.ofNat 64 i).toNat) := by
  induction n generalizing a i with
  | zero => exact absurd hi (Nat.not_lt_zero i)
  | succ n ih =>
    cases i with
    | zero => simp [Memory.bytes]
    | succ i => rw [Memory.bytes, List.getElem?_cons_succ, ih (a + 1) (by omega), add_one_add_ofNat]

theorem Memory.bytes_add (m : Memory) (a : Word) (j k : Nat) :
    m.bytes a (j + k) = m.bytes a j ++ m.bytes (a + BitVec.ofNat 64 j) k := by
  induction j generalizing a with
  | zero => simp [Memory.bytes]
  | succ j ih => rw [Nat.add_right_comm, Memory.bytes, Memory.bytes, ih, add_one_add_ofNat, List.cons_append]

/-- The page of an address that translates: its walk maps it, and the bytes that follow in it are those that follow the
physical address. -/
theorem exists_page_of_physicalAddress {s : State} {root va pa : Word} (h : physicalAddress s root va = .ok pa) :
    ∃ x base k, walkLoop s (splitAddress va) 4 .l4 root [] = .ok x ∧ MapsPage x va base k ∧
      pa = base + BitVec.ofNat 64 (va.toNat % 2 ^ k) ∧
      ∀ j, j ≤ 2 ^ k - va.toNat % 2 ^ k → TranslatedBytes s root va j (s.mem.bytes pa j) := by
  obtain ⟨haccepts, x, base, hloop, hbase⟩ := resolve_of_physicalAddress h
  obtain ⟨k, hk, hmaps, hpage⟩ := walkLoop_maps_page hloop hbase
  have hpa : pa = base + BitVec.ofNat 64 (va.toNat % 2 ^ k) :=
    Except.ok.inj (h.symm.trans (physicalAddress_of_mapsPage haccepts hloop hmaps))
  refine ⟨x, base, k, hloop, hmaps, hpa, fun j hj => ⟨Memory.length_bytes _ _ _, fun i pa' hi h' => ?_⟩⟩
  obtain ⟨hdiv, hmod⟩ := toNat_add_in_page (va := va) hk (hi.trans_le hj)
  obtain ⟨x', hloop', hmaps'⟩ := hpage _ hdiv
  have hpa' := h'.symm.trans (physicalAddress_of_mapsPage (resolve_of_physicalAddress h').1 hloop' hmaps')
  rw [hmod, BitVec.ofNat_add, ← BitVec.add_assoc, ← hpa] at hpa'
  rw [Memory.getElem?_bytes _ _ hi, Except.ok.inj hpa']

/-! ### The copy of a chunk -/

/-- The state that copies the chunk `c` of the request `r`. -/
def State.copying (s : State) (r : RangeFrame) (c : CopyState) : State :=
  { s with walk := none, range := some { r with copy := some c } }

theorem State.endRange_copying (s : State) (r : RangeFrame) (c : CopyState) (out : List Byte) :
    (s.copying r c).endRange out = s.endRange out := by
  unfold State.endRange State.copying
  dsimp only
  split <;> rfl

/-- With no abort scripted, the loop over pages goes on alike after a read and before the first. -/
theorem State.rangeLoop_copying {s : State} (haborts : s.aborts = []) (r : RangeFrame) (c : CopyState) (r' : RangeFrame) :
    (s.copying r c).rangeLoop r' true = s.rangeLoop r' false := by
  have haccepts : (s.copying r c).acceptsVa r'.cur = s.acceptsVa r'.cur := rfl
  unfold State.rangeLoop
  rw [haccepts]
  split
  · exact s.endRange_copying r c r'.out
  · split
    · exact State.sampleAbort_of_aborts_nil haborts
    · rfl

/-- The step of the copy with a data read that the image answers (R505). -/
theorem loggedStep_copy {s : State} {c : CopyState} {v : Word} (r : RangeFrame) (hanswers : s.answers = [])
    (hleft : c.chunkLeft ≠ 0)
    (h : imageAnswer s.mem s.inaccessible c.pa (dataReadSize c.pa c.chunkLeft) = .value v) :
    LoggedStep (s.copying r c)
      ((s.copying r c).afterDataRead { r with copy := some c } c (dataReadSize c.pa c.chunkLeft).bytes v) := by
  intro log
  have hfetch : fetch ((s.copying r c).withReadLog log) =
      rangeStep ((s.copying r c).withReadLog log) { r with copy := some c } := rfl
  refine ⟨[{ addr := c.pa, size := dataReadSize c.pa c.chunkLeft, answer := some v }], ?_⟩
  rw [step, hfetch, rangeStep]
  dsimp only
  rw [if_neg hleft, memRead_withReadLog (by exact hanswers) (by exact h), State.withReadLog_afterDataRead]

theorem bytes_dataReadSize_pos (pa left : Word) : 0 < (dataReadSize pa left).bytes := by
  unfold dataReadSize
  split <;> decide

theorem bytes_dataReadSize_le {pa left : Word} (h : left ≠ 0) : (dataReadSize pa left).bytes ≤ left.toNat := by
  unfold dataReadSize
  split
  · rename_i hfits
    exact hfits.2
  · exact BitVec.toNat_pos_of_ne_zero h

theorem toNat_sub_ofNat {a : Word} {n : Nat} (h : n ≤ a.toNat) : (a - BitVec.ofNat 64 n).toNat = a.toNat - n := by
  have hn : (BitVec.ofNat 64 n).toNat = n := by
    rw [BitVec.toNat_ofNat, Nat.mod_eq_of_lt (h.trans_lt a.isLt)]
  rw [BitVec.toNat_sub_of_le (by rw [BitVec.le_def, hn]; exact h), hn]

/-- Undisturbed, a chunk is copied whole, and the loop over pages goes on behind it. -/
theorem loggedRun_copy {s : State} (hs : Undisturbed s) (hinaccessible : s.inaccessible = []) (r : RangeFrame)
    (c : CopyState) (hleft : c.chunkLeft ≠ 0) :
    LoggedRun (s.copying r c)
      (s.rangeLoop { r with cur := r.cur + c.chunk, remaining := r.remaining - c.chunk
                            out := r.out ++ s.mem.bytes c.pa c.chunkLeft.toNat, copy := none } false) := by
  obtain ⟨hanswers, haborts⟩ := hs
  induction hn : c.chunkLeft.toNat using Nat.strong_induction_on generalizing r c with
  | _ n ih =>
    obtain ⟨v, hv⟩ := exists_imageAnswer s.mem c.pa (dataReadSize c.pa c.chunkLeft)
    have hbytes := bytesLE_of_imageAnswer hv
    have hstep := loggedStep_copy (s := s) r hanswers hleft (by rw [hinaccessible]; exact hv)
    have hpos := bytes_dataReadSize_pos c.pa c.chunkLeft
    have hle := bytes_dataReadSize_le (pa := c.pa) hleft
    have hsub := toNat_sub_ofNat hle
    generalize (dataReadSize c.pa c.chunkLeft).bytes = k at *
    obtain ⟨hmore, hafter⟩ | ⟨hdone, hafter⟩ := (s.copying r c).afterDataRead_cases { r with copy := some c } c k v
    · rw [hafter, State.sampleAbort_of_aborts_nil (by exact haborts), hbytes] at hstep
      have hsplit : n = k + (n - k) := by omega
      have hrun := ih (n - k) (by omega) { r with out := r.out ++ s.mem.bytes c.pa k }
        { c with pa := c.pa + BitVec.ofNat 64 k, chunkLeft := c.chunkLeft - BitVec.ofNat 64 k } hmore (by rw [hsub, hn])
      rw [hsplit, Memory.bytes_add, ← List.append_assoc]
      exact .head hstep hrun
    · have hzero : (c.chunkLeft - BitVec.ofNat 64 k).toNat = 0 := by rw [hdone]; rfl
      have hk : k = n := by omega
      rw [hafter, State.rangeLoop_copying haborts, hbytes, hk] at hstep
      exact .single hstep

/-! ### The loop over pages -/

theorem allTranslate_drop {s : State} {root va : Word} {j k : Nat} (h : AllTranslate s root va (j + k)) :
    AllTranslate s root (va + BitVec.ofNat 64 j) k := by
  intro i hi
  rw [BitVec.add_assoc, ← BitVec.ofNat_add]
  exact h (j + i) (by omega)

theorem translatedBytes_append {s : State} {root va : Word} {j k : Nat} {bs bs' : List Byte}
    (h : TranslatedBytes s root va j bs) (h' : TranslatedBytes s root (va + BitVec.ofNat 64 j) k bs') :
    TranslatedBytes s root va (j + k) (bs ++ bs') := by
  obtain ⟨hlength, hbytes⟩ := h
  obtain ⟨hlength', hbytes'⟩ := h'
  refine ⟨by rw [List.length_append, hlength, hlength'], fun i pa hi hpa => ?_⟩
  by_cases hij : i < j
  · rw [List.getElem?_append_left (by omega)]
    exact hbytes i pa hij hpa
  · rw [List.getElem?_append_right (by omega), hlength]
    refine hbytes' (i - j) pa (by omega) ?_
    rwa [BitVec.add_assoc, ← BitVec.ofNat_add, Nat.add_sub_cancel' (by omega)]

theorem translatedBytes_nil (s : State) (root va : Word) : TranslatedBytes s root va 0 [] :=
  ⟨rfl, fun i _ hi => absurd hi (Nat.not_lt_zero i)⟩

theorem State.rangeLoop_of_remaining_eq_zero {s : State} {r : RangeFrame} (h : r.remaining = 0) (afterRead : Bool) :
    s.rangeLoop r afterRead = s.endRange r.out := if_pos h

theorem State.rangeLoop_of_acceptsVa {s : State} {r : RangeFrame} (h : r.remaining ≠ 0)
    (haccepts : s.acceptsVa r.cur = true) :
    s.rangeLoop r false = { s with range := some r, walk := some (firstWalkFrame r.root r.cur) } :=
  (if_neg h).trans (if_pos haccepts)

/-- The end of a page's walk inside a READ, with no abort scripted: the copy of the page's chunk begins. -/
theorem State.endWalk_of_mapsPage {s : State} (haborts : s.aborts = []) {r : RangeFrame} {x : TranslationResult}
    {base : Word} {k : Nat} (hmaps : MapsPage x r.cur base k) {chunk : Nat}
    (hchunk : chunk = min (2 ^ k - r.cur.toNat % 2 ^ k) r.remaining.toNat) :
    State.endWalk { s with range := some r } x =
      s.copying r { pa := base + BitVec.ofNat 64 (r.cur.toNat % 2 ^ k), chunkLeft := BitVec.ofNat 64 chunk
                    chunk := BitVec.ofNat 64 chunk } := by
  obtain ⟨offset, hoffset, hvalue⟩ := hmaps.pageOffset
  have hwidth : offset.setWidth 64 = BitVec.ofNat 64 offset.toNat := by rw [BitVec.ofNat_toNat]
  unfold State.endWalk
  simp only [hmaps.pageBase, hmaps.pageSize, hoffset]
  rw [State.sampleAbort_of_aborts_nil (by exact haborts), hchunk, ← hvalue, ← hwidth]
  rfl

/-- Undisturbed, one iteration of READ's loop whose address translates: the rest of its page, or of the request, is read. -/
theorem loggedRun_page {s : State} (hs : Undisturbed s) (hinaccessible : s.inaccessible = []) {r : RangeFrame}
    (hremaining : r.remaining ≠ 0) {pa : Word} (h : physicalAddress s r.root r.cur = .ok pa) :
    ∃ j, 0 < j ∧ j ≤ r.remaining.toNat ∧ TranslatedBytes s r.root r.cur j (s.mem.bytes pa j) ∧
      LoggedRun (s.rangeLoop r false)
        (s.rangeLoop { r with cur := r.cur + BitVec.ofNat 64 j, remaining := r.remaining - BitVec.ofNat 64 j
                              out := r.out ++ s.mem.bytes pa j, copy := none } false) := by
  have ⟨hanswers, haborts⟩ := hs
  obtain ⟨x, base, k, hloop, hmaps, hpa, hbytes⟩ := exists_page_of_physicalAddress h
  obtain ⟨j, hj⟩ : ∃ j, j = min (2 ^ k - r.cur.toNat % 2 ^ k) r.remaining.toNat := ⟨_, rfl⟩
  have hoffset : r.cur.toNat % 2 ^ k < 2 ^ k := Nat.mod_lt _ (Nat.two_pow_pos k)
  have hleft : 0 < r.remaining.toNat := BitVec.toNat_pos_of_ne_zero hremaining
  have hjvalue : (BitVec.ofNat 64 j).toNat = j := by
    rw [BitVec.toNat_ofNat, Nat.mod_eq_of_lt (by omega)]
  have hjpos : 0 < j := by omega
  have hjne : BitVec.ofNat 64 j ≠ 0 := by
    rw [BitVec.toNat_ne, hjvalue]
    exact hjpos.ne'
  have hwalk : LoggedRun (s.rangeLoop r false) (State.endWalk { s with range := some r } x) := by
    rw [State.rangeLoop_of_acceptsVa hremaining (resolve_of_physicalAddress h).1]
    rw [← walkLoop_eq_of_guest_eq (s := s) (t := { s with range := some r }) rfl] at hloop
    exact loggedRun_walk (s := { s with range := some r }) (f := firstWalkFrame r.root r.cur) hanswers haborts hloop le_rfl
  rw [State.endWalk_of_mapsPage haborts hmaps hj, ← hpa] at hwalk
  have hcopy := loggedRun_copy hs hinaccessible r
    { pa := pa, chunkLeft := BitVec.ofNat 64 j, chunk := BitVec.ofNat 64 j } hjne
  rw [hjvalue] at hcopy
  exact ⟨j, hjpos, by omega, hbytes j (by omega), hwalk.trans hcopy⟩

/-- Undisturbed, a READ whose bytes all translate ends with them, in virtual order (R506). -/
theorem loggedRun_range {s : State} (hs : Undisturbed s) (hinaccessible : s.inaccessible = []) (r : RangeFrame)
    (h : AllTranslate s r.root r.cur r.remaining.toNat) :
    ∃ bs, TranslatedBytes s r.root r.cur r.remaining.toNat bs ∧
      LoggedRun (s.rangeLoop r false) (s.endRange (r.out ++ bs)) := by
  induction hn : r.remaining.toNat using Nat.strong_induction_on generalizing r with
  | _ n ih =>
    by_cases hremaining : r.remaining = 0
    · have hzero : n = 0 := by rw [← hn, hremaining]; rfl
      subst hzero
      refine ⟨[], translatedBytes_nil s r.root r.cur, ?_⟩
      rw [State.rangeLoop_of_remaining_eq_zero hremaining, List.append_nil]
      exact .refl
    · obtain ⟨pa, hpa⟩ := h 0 (BitVec.toNat_pos_of_ne_zero hremaining)
      rw [BitVec.add_zero] at hpa
      obtain ⟨j, hjpos, hj, hbytes, hrun⟩ := loggedRun_page hs hinaccessible hremaining hpa
      have hsub := toNat_sub_ofNat hj
      have hsplit : n = j + (n - j) := by omega
      rw [hn, hsplit] at h
      obtain ⟨bs, hbs, hrest⟩ := ih (n - j) (by omega)
        { r with cur := r.cur + BitVec.ofNat 64 j, remaining := r.remaining - BitVec.ofNat 64 j
                 out := r.out ++ s.mem.bytes pa j, copy := none }
        (by rw [hsub, hn]; exact allTranslate_drop h) (by rw [hsub, hn])
      refine ⟨s.mem.bytes pa j ++ bs, hsplit ▸ translatedBytes_append hbytes hbs, ?_⟩
      rw [← List.append_assoc]
      exact hrun.trans hrest

end Sys2Proof.Machine

/-!
The IDT (spec/44_gate_descriptors.md R610, R611): from a table just read, one step for each 16 bytes; and the whole command,
the READ of its table before them.
-/

namespace Sys2Proof.Machine

open Sys2Proof.Safety

/-- The gates of the `n` slots of a buffer from the offset `off` on. -/
def gatesFrom (buf : List Byte) (off n : Nat) : List GateDesc :=
  (List.range n).map fun k => decodeGate (slotValue buf (off + 16 * k))

theorem gatesFrom_succ (buf : List Byte) (off n : Nat) :
    gatesFrom buf off (n + 1) = decodeGate (slotValue buf off) :: gatesFrom buf (off + 16) n := by
  have hslot (k : Nat) : off + 16 * (k + 1) = off + 16 + 16 * k := by omega
  simp [gatesFrom, List.range_succ_eq_map, Function.comp_def, hslot]

theorem idtProcedure_eq_gatesFrom (buf : List Byte) : idtProcedure buf = gatesFrom buf 0 (buf.length / 16) := by
  simp only [idtProcedure, gatesFrom, slotValue, Nat.zero_add]

theorem length_idtProcedure (buf : List Byte) : (idtProcedure buf).length = buf.length / 16 := by
  rw [idtProcedure, List.length_map, List.length_range]

/-- The TABLE frame with one more gate, the cursor moved behind it (R610). -/
def TableFrame.appendGate (t : TableFrame) (g : GateDesc) : TableFrame :=
  { t with off := t.off + 16, gates := t.gates ++ [g] }

@[simp] theorem TableFrame.bytes_appendGate (t : TableFrame) (g : GateDesc) : (t.appendGate g).bytes = t.bytes := rfl
@[simp] theorem TableFrame.off_appendGate (t : TableFrame) (g : GateDesc) : (t.appendGate g).off = t.off + 16 := rfl

section TableStep

variable {s : State} {t : TableFrame} {buf : List Byte} (hwalk : s.walk = none) (hrange : s.range = none)
  (htable : s.table = some t) (hbuf : t.buf = some buf) (hkind : t.kind = .idt)
include hwalk hrange htable hbuf hkind

/-- With less than a slot left the command ends with its gates (R610). -/
theorem step_idt_end (h : t.bytes - t.off < 16) : step s = .next (answered s (okay (.gates t.gates))) := by
  have hfetch : fetch s = .done (s.complete (.gates t.gates)) := by
    simp [fetch, hwalk, hrange, htable, tableStep, hbuf, hkind, h]
  rw [step, hfetch]
  rfl

/-- At a slot the gate of its 16 bytes is added (R610). -/
theorem step_idt_slot (h : t.off + 16 ≤ t.bytes) :
    step s = .next { s with table := some (t.appendGate (decodeGate (slotValue buf t.off))) } := by
  have hleft : ¬ t.bytes - t.off < 16 := by omega
  have hfetch : fetch s = .run (.gatedesc (slotValue buf t.off)) s := by
    simp [fetch, hwalk, hrange, htable, tableStep, hbuf, hkind, hleft, gateRow]
  rw [step, hfetch]
  exact State.inSlot_of_table _ hwalk hrange htable hbuf hkind h

end TableStep

/-- With `n` whole slots behind the cursor, `n + 1` steps end the command with their gates behind those decoded before. -/
theorem runsTo_idt {s : State} {t : TableFrame} {buf : List Byte} (hwalk : s.walk = none) (hrange : s.range = none)
    (htable : s.table = some t) (hbuf : t.buf = some buf) (hkind : t.kind = .idt) {n : Nat}
    (hn : (t.bytes - t.off) / 16 = n) :
    RunsTo (n + 1) s (answered s (okay (.gates (t.gates ++ gatesFrom buf t.off n)))) := by
  induction n generalizing s t with
  | zero =>
    have hend := step_idt_end hwalk hrange htable hbuf hkind (by omega)
    simpa [gatesFrom] using runsTo_succ_iff.mpr ⟨_, hend, runsTo_zero _⟩
  | succ n ih =>
    have hslot := step_idt_slot hwalk hrange htable hbuf hkind (by omega)
    have hrest := ih (s := { s with table := some (t.appendGate (decodeGate (slotValue buf t.off))) }) hwalk hrange rfl
      hbuf hkind (by rw [TableFrame.bytes_appendGate, TableFrame.off_appendGate]; omega)
    rw [gatesFrom_succ, List.append_cons]
    exact runsTo_succ_iff.mpr ⟨_, hslot, hrest⟩

/-- From a table just read, a step for each gate and one more end the command with all of them (R611). -/
theorem runsTo_idtProcedure {s : State} {t : TableFrame} {buf : List Byte} (hwalk : s.walk = none)
    (hrange : s.range = none) (htable : s.table = some t) (hbuf : t.buf = some buf) (hkind : t.kind = .idt)
    (hlength : buf.length = t.bytes) (hoff : t.off = 0) (hgates : t.gates = []) :
    RunsTo (buf.length / 16 + 1) s (answered s (okay (.gates (idtProcedure buf)))) := by
  have hrun := runsTo_idt hwalk hrange htable hbuf hkind (n := buf.length / 16) (by rw [hoff, hlength, Nat.sub_zero])
  rwa [hoff, hgates, ← idtProcedure_eq_gatesFrom, List.nil_append] at hrun

/-! ### The whole command -/

/-- IDT in an idle block starts the READ of its table (R610). -/
theorem step_of_holds_idt {s : State} {root base : Word} {limit : BitVec 16} (h : Holds s (.idt root base limit)) :
    step s = .next (s.beginTable .idt root base limit) := by
  obtain ⟨hidle, w, hcmd, hdecode⟩ := h
  rw [step_of_command hidle hcmd, hdecode]
  exact State.startCommand_of_idle hidle fun s => s.beginTable .idt root base limit

theorem State.withReadLog_beginTable (s : State) (log : List ReadEvent) (kind : TableKind) (root base : Word)
    (limit : BitVec 16) :
    (s.beginTable kind root base limit).withReadLog log = (s.withReadLog log).beginTable kind root base limit :=
  State.withReadLog_rangeLoop _ log _ false

theorem loggedStep_idt {s : State} {root base : Word} {limit : BitVec 16} (h : Holds s (.idt root base limit)) :
    LoggedStep s (s.beginTable .idt root base limit) := by
  intro log
  refine ⟨[], ?_⟩
  rw [List.append_nil, State.withReadLog_beginTable]
  exact step_of_holds_idt (by exact h)

/-- The TABLE frame that a table command starts with (R572). -/
def firstTableFrame (kind : TableKind) (root base : Word) (limit : BitVec 16) : TableFrame where
  kind := kind
  root := root
  base := base
  limit := limit
  buf := none
  off := 0
  segs := []
  gates := []

/-- The state that decodes the table of `t`. -/
def State.decoding (s : State) (t : TableFrame) : State :=
  { s with walk := none, range := none, table := some t }

/-- Undisturbed, a table command whose bytes all translate reads its table (R572, R610). -/
theorem loggedRun_beginTable {s : State} (hs : Undisturbed s) (hinaccessible : s.inaccessible = []) (kind : TableKind)
    {root base : Word} {limit : BitVec 16} (h : AllTranslate s root base (limit.toNat + 1)) :
    ∃ buf, TranslatedBytes s root base (limit.toNat + 1) buf ∧
      LoggedRun (s.beginTable kind root base limit)
        (s.decoding { firstTableFrame kind root base limit with buf := some buf }) := by
  have hguest : State.guest { s with table := some (firstTableFrame kind root base limit) } = s.guest := rfl
  have hlength : (BitVec.ofNat 64 (limit.toNat + 1)).toNat = limit.toNat + 1 := by
    rw [BitVec.toNat_ofNat, Nat.mod_eq_of_lt (by omega)]
  rw [← hlength, ← allTranslate_iff_of_guest_eq hguest] at h
  obtain ⟨buf, hbuf, hrun⟩ := loggedRun_range (s := { s with table := some (firstTableFrame kind root base limit) }) hs
    hinaccessible
    { root := root, cur := base, remaining := BitVec.ofNat 64 (limit.toNat + 1), out := [], copy := none } h
  rw [hlength, translatedBytes_iff_of_guest_eq hguest] at hbuf
  exact ⟨buf, hbuf, hrun⟩

end Sys2Proof.Machine

namespace Sys2Proof.Certificates

open Sys2Proof.Machine Sys2Proof.Safety

/-- Settles O43: from the table one step for each gate (`runsTo_idt`); before it, in the whole command, the READ of its
bytes (`loggedRun_beginTable`). -/
theorem idtDecodesEverySixteenBytes : Obligations.IdtDecodesEverySixteenBytes := by
  refine ⟨fun s t buf hwalk hrange htable hbuf hkind hlength hoff hgates =>
    ⟨by rw [length_idtProcedure, hlength, TableFrame.bytes],
      _, runsTo_idtProcedure hwalk hrange htable hbuf hkind hlength hoff hgates⟩, ?_⟩
  intro s root base limit _ hholds hundisturbed hinaccessible htranslate
  obtain ⟨buf, hbytes, hread⟩ := loggedRun_beginTable hundisturbed hinaccessible .idt htranslate
  obtain ⟨m, events, hrun⟩ := LoggedRun.runsTo (.head (loggedStep_idt hholds) hread) s.readLog
  have hdecode := runsTo_idtProcedure
    (s := (s.decoding { firstTableFrame .idt root base limit with buf := some buf }).withReadLog (s.readLog ++ events))
    rfl rfl rfl rfl rfl hbytes.1 rfl rfl
  exact ⟨_, events, buf, hbytes, runsTo_trans hrun hdecode⟩

end Sys2Proof.Certificates

/-!
Decode and encode agree (spec/30_encoding.md R301, R302, R319, R323, R325): a command by the number that its bytes are, an
entry or a segment row by the bits that its mask in the dispatch table looks at.
-/

namespace Sys2Proof

/-! ### Words and their bytes -/

/-- The value of the leading bytes of a list, in two parts; bytes past its end count nothing. -/
theorem le_take_add (bs : List Byte) (j k : Nat) :
    le (bs.take (j + k)) = le (bs.take j) + 2 ^ (8 * j) * le ((bs.drop j).take k) := by
  rw [List.take_add, le_append]
  by_cases hj : j ≤ bs.length
  · rw [List.length_take_of_le hj]
  · simp [List.drop_of_length_le (not_le.mp hj).le, le]

theorem ofNat_le_bytesLE {w k : Nat} (hw : w = 8 * k) (v : BitVec w) : BitVec.ofNat w (le (bytesLE v.toNat k)) = v := by
  rw [le_bytesLE, ← hw, Nat.mod_eq_of_lt v.isLt, BitVec.ofNat_toNat, BitVec.setWidth_eq]

theorem toNat_ofNat_le {w : Nat} {bs : List Byte} (h : 8 * bs.length ≤ w) : (BitVec.ofNat w (le bs)).toNat = le bs := by
  rw [BitVec.toNat_ofNat, Nat.mod_eq_of_lt ((le_lt bs).trans_le (Nat.pow_le_pow_right (by decide) h))]

theorem bytesLE_ofNat_le_take {w k : Nat} {bs : List Byte} (hw : w = 8 * k) (h : k ≤ bs.length) :
    bytesLE (BitVec.ofNat w (le (bs.take k))).toNat k = bs.take k := by
  have hlength : (bs.take k).length = k := List.length_take_of_le h
  have hbytes := bytesLE_le (bs.take k)
  rwa [hlength, ← toNat_ofNat_le (w := w) (by omega)] at hbytes

/-- Lists of bytes of one length are equal where their values are. -/
theorem eq_of_le_eq {as bs : List Byte} (hlength : as.length = bs.length) (h : le as = le bs) : as = bs := by
  rw [← bytesLE_le as, ← bytesLE_le bs, hlength, h]

theorem take_bytesLE_append (v k : Nat) (rest : List Byte) : (bytesLE v k ++ rest).take k = bytesLE v k :=
  List.take_left' (length_bytesLE v k)

theorem take_bytesLE (v : Nat) {n k : Nat} (h : n ≤ k) : (bytesLE v k).take n = bytesLE v n := by
  induction k generalizing v n with
  | zero => rw [Nat.le_zero.mp h, List.take_zero, bytesLE]
  | succ k ih =>
    cases n with
    | zero => rfl
    | succ n => rw [bytesLE, List.take_succ_cons, ih _ (Nat.le_of_succ_le_succ h), bytesLE]

theorem field_eq_of_div_mod {w lo n : Nat} {v : BitVec w} {x : BitVec n} (h : v.toNat / 2 ^ lo % 2 ^ n = x.toNat) :
    field v lo n = x :=
  BitVec.eq_of_toNat_eq (by rw [field_toNat, bits_eq_div_mod, h])

/-! ### A row's test -/

/-- A row matches a word exactly where the word has the pattern's bits under the mask. -/
theorem matchesRow_iff {w mask pattern : Word} (hp : pattern &&& mask = pattern) :
    matchesRow w mask pattern = true ↔ ∀ i, mask.getLsbD i = true → w.getLsbD i = pattern.getLsbD i := by
  rw [matchesRow, beq_iff_eq]
  constructor
  · intro h i hi
    have hbit := congrArg (·.getLsbD i) h
    simpa [hi] using hbit
  · intro h
    refine BitVec.eq_of_getLsbD_eq fun i _ => ?_
    cases hi : mask.getLsbD i with
    | true => simp [h i hi, hi]
    | false =>
      have hbit := congrArg (·.getLsbD i) hp
      simp only [BitVec.getLsbD_and, hi, Bool.and_false] at hbit ⊢
      exact hbit

theorem getLsbD_present (i : Nat) : BitVec.getLsbD (0x01 : Word) i = true ↔ i = 0 :=
  (getLsbD_ofNat_two_pow_sub_two_pow (w := 64) (lo := 0) (hi := 1) (by decide) (by decide) i).trans (by omega)

theorem getLsbD_present_ps (i : Nat) : BitVec.getLsbD (0x81 : Word) i = true ↔ i = 0 ∨ i = 7 := by
  have hsplit : (0x81 : Word) = 0x01 ||| 0x80 := rfl
  rw [hsplit, BitVec.getLsbD_or, Bool.or_eq_true, getLsbD_present]
  exact or_congr_right (Machine.getLsbD_rsvd_l4 i)

/-- The not-present row of level 4 and the rows of level 1 look at P alone. -/
theorem matchesRow_present_iff {raw pattern : Word} (hp : pattern &&& 0x01 = pattern) :
    matchesRow raw 0x01 pattern = true ↔ bit raw 0 = bit pattern 0 := by
  simp only [matchesRow_iff hp, getLsbD_present, forall_eq]

/-- The other entry rows look at P and bit 7. -/
theorem matchesRow_present_ps_iff {raw pattern : Word} (hp : pattern &&& 0x81 = pattern) :
    matchesRow raw 0x81 pattern = true ↔ bit raw 0 = bit pattern 0 ∧ bit raw 7 = bit pattern 7 := by
  simp only [matchesRow_iff hp, getLsbD_present_ps, forall_eq_or_imp, forall_eq]

/-- Masking out the bits from `lo` to `lo + n - 1` leaves that field in its place. -/
theorem and_two_pow_sub_two_pow (v lo n : Nat) : v &&& (2 ^ (lo + n) - 2 ^ lo) = bits v lo n * 2 ^ lo := by
  apply Nat.eq_of_testBit_eq
  intro i
  rw [Nat.testBit_and, testBit_two_pow_sub_two_pow (by omega), Nat.testBit_mul_two_pow, testBit_bits]
  by_cases hlo : lo ≤ i
  · have hlt : i < lo + n ↔ i - lo < n := by omega
    simp [hlo, hlt, Nat.add_sub_cancel' hlo, Bool.and_comm]
  · simp [hlo]

/-- A row that looks at the `n` bits from `lo` up matches exactly where that field has the row's value. -/
theorem matchesRow_iff_field {w mask pattern : Word} {lo n p : Nat} (hmask : mask.toNat = 2 ^ (lo + n) - 2 ^ lo)
    (hpattern : pattern.toNat = p * 2 ^ lo) : matchesRow w mask pattern = true ↔ (field w lo n).toNat = p := by
  rw [matchesRow, beq_iff_eq, ← BitVec.toNat_inj, BitVec.toNat_and, hmask, hpattern, and_two_pow_sub_two_pow,
    field_toNat, Nat.mul_left_inj (Nat.two_pow_pos lo).ne']

/-- The rows of the system types look at the S bit and the type nibble (R323). -/
theorem matchesRow_type_iff {d pattern : Word} (hp : pattern.toNat % 2 ^ 40 = 0) :
    matchesRow d 0x00001F0000000000 pattern = true ↔ (field d 40 5).toNat = pattern.toNat / 2 ^ 40 :=
  matchesRow_iff_field rfl (by omega)

/-- The rows of data and code look at the S bit and bit 43, the top of the type nibble. -/
theorem matchesRow_data_iff {d : Word} :
    matchesRow d 0x0000180000000000 0x0000100000000000 = true ↔ (field d 43 2).toNat = 2 :=
  matchesRow_iff_field rfl rfl

theorem matchesRow_code_iff {d : Word} :
    matchesRow d 0x0000180000000000 0x0000180000000000 = true ↔ (field d 43 2).toNat = 3 :=
  matchesRow_iff_field rfl rfl

/-! ### Entry rows -/

@[simp] theorem kind_entryRow (L : Level) (raw : Word) : (entryRow L raw).kind = .entry L := by
  unfold entryRow
  split <;> rfl

@[simp] theorem encode_entryRow (L : Level) (raw : Word) : encode (entryRow L raw) = bytesLE raw.toNat 8 := by
  unfold entryRow
  split <;> rfl

theorem wf_entryRow (L : Level) (raw : Word) : (entryRow L raw).wf = true := by
  unfold entryRow
  split
  case h_1 hp | h_12 hp | h_13 hp => exact (matchesRow_present_iff rfl).mpr hp
  all_goals next hp hps => exact (matchesRow_present_ps_iff rfl).mpr ⟨hp, hps⟩

/-- A well-formed entry instruction is the row of some entry, whose bytes it has. -/
theorem exists_entryRow_of_wf {i : Instr} {L : Level} (hkind : i.kind = .entry L) (hwf : i.wf = true) :
    ∃ raw, i = entryRow L raw := by
  cases i with
  | pteL4P0 raw | pteL1P0 raw | pteL1P1 raw =>
    cases hkind
    have hp := (matchesRow_present_iff rfl).mp hwf
    exact ⟨raw, by unfold entryRow; rw [hp]; rfl⟩
  | pteL4P1PS0 raw | pteL4P1PS1 raw | pteL3P0PS0 raw | pteL3P0PS1 raw | pteL3P1PS0 raw | pteL3P1PS1 raw | pteL2P0PS0 raw
  | pteL2P0PS1 raw | pteL2P1PS0 raw | pteL2P1PS1 raw =>
    cases hkind
    obtain ⟨hp, hps⟩ := (matchesRow_present_ps_iff rfl).mp hwf
    exact ⟨raw, by unfold entryRow; rw [hp, hps]; rfl⟩
  | _ => cases hkind

/-! ### Segment rows -/

@[simp] theorem kind_segmentRow (d : Word) : (segmentRow d).kind = .segment := by
  unfold segmentRow
  split
  case h_17 => split <;> rfl
  all_goals rfl

@[simp] theorem encode_segmentRow (d : Word) : encode (segmentRow d) = bytesLE d.toNat 8 := by
  unfold segmentRow
  split
  case h_17 => split <;> rfl
  all_goals rfl

/-- The top of the type nibble and the S bit, of the five bits that classify a slot. -/
theorem toNat_field_data (d : Word) : (field d 43 2).toNat = (field d 40 5).toNat / 8 := by
  simp only [field_toNat, bits_eq_div_mod]
  omega

theorem bit_code_iff (d : Word) : bit d 43 = true ↔ (field d 40 5).toNat / 8 % 2 = 1 := by
  rw [bit, ← BitVec.testBit_toNat, Nat.testBit_eq_decide_div_mod_eq, decide_eq_true_iff, field_toNat, bits_eq_div_mod]
  omega

/-- With the S bit set the slot is code or data, by the top of its type nibble (R323). -/
theorem segmentRow_of_sBit {d : Word} (h : 16 ≤ (field d 40 5).toNat) :
    segmentRow d = if bit d 43 then .segdescCode d else .segdescData d := by
  unfold segmentRow
  split
  case h_17 => rfl
  all_goals omega

theorem wf_segmentRow (d : Word) : (segmentRow d).wf = true := by
  have hcode := bit_code_iff d
  have hdata := toNat_field_data d
  have hlt := (field d 40 5).isLt
  unfold segmentRow
  split
  case h_17 =>
    have hs : 16 ≤ (field d 40 5).toNat := by simp only [imp_false] at *; omega
    split
    · next hbit => exact matchesRow_code_iff.mpr (by rw [hcode] at hbit; omega)
    · next hbit => exact matchesRow_data_iff.mpr (by rw [hcode] at hbit; omega)
  all_goals next h => exact (matchesRow_type_iff rfl).mpr h

/-- A well-formed segment instruction is the row of some slot, whose bytes it has. -/
theorem exists_segmentRow_of_wf {i : Instr} (hkind : i.kind = .segment) (hwf : i.wf = true) :
    ∃ d, i = segmentRow d := by
  cases i with
  | segdescData d =>
    have htype := matchesRow_data_iff.mp hwf
    have hdata := toNat_field_data d
    exact ⟨d, by rw [segmentRow_of_sBit (by omega), if_neg (by rw [bit_code_iff]; omega)]⟩
  | segdescCode d =>
    have htype := matchesRow_code_iff.mp hwf
    have hdata := toNat_field_data d
    exact ⟨d, by rw [segmentRow_of_sBit (by omega), if_pos (by rw [bit_code_iff]; omega)]⟩
  | segdescNull d | segdescCallgate d | segdescTssT9 d | segdescTssTB d | segdescTssTD d | segdescUnsupportedT1 d
  | segdescUnsupportedT2 d | segdescUnsupportedT3 d | segdescUnsupportedT4 d | segdescUnsupportedT5 d
  | segdescUnsupportedT6 d | segdescUnsupportedT7 d | segdescUnsupportedT8 d | segdescUnsupportedTA d
  | segdescUnsupportedTC d | segdescUnsupportedTE d =>
    have htype := (matchesRow_type_iff rfl).mp hwf
    exact ⟨d, by unfold segmentRow; rw [htype]; rfl⟩
  | _ => cases hkind

/-! ### Commands -/

theorem toNat_commandWord {i : Instr} (h : (encode i).length ≤ 25) : (commandWord i).toNat = le (encode i) :=
  toNat_ofNat_le (by omega)

/-- An opcode that is legal or not has at most 25 bytes, itself among them. -/
theorem commandLength_mem (opcode : BitVec 8) : 1 ≤ commandLength opcode ∧ commandLength opcode ≤ 25 := by
  unfold commandLength
  split <;> decide

theorem length_encode_decodeCommand (w : CommandWord) :
    (encode (decodeCommand w)).length = commandLength (field w 0 8) := by
  unfold decodeCommand commandLength
  split <;> simp [encode]

theorem exists_encode_decodeCommand_eq_cons (w : CommandWord) :
    ∃ bs, encode (decodeCommand w) = field w 0 8 :: bs := by
  unfold decodeCommand
  split
  case h_10 => exact ⟨[], rfl⟩
  all_goals next h => exact ⟨_, congrArg (· :: _) (BitVec.eq_of_toNat_eq h.symm)⟩

/-- Every byte of a command stands in the encoding of what it decodes to. -/
theorem le_encode_decodeCommand (w : CommandWord) :
    le (encode (decodeCommand w)) = w.toNat % 2 ^ (8 * commandLength (field w 0 8)) := by
  have hop := toNat_opcode w
  unfold decodeCommand commandLength
  split
  case h_10 => simp [encode, le]
  all_goals
    next h =>
    rw [h] at hop
    simp [encode, le, le_append, le_bytesLE, field_toNat, bits_eq_div_mod, -BitVec.extractLsb'_toNat]
    omega

theorem opcodeIsIllegal_iff (opcode : BitVec 8) :
    opcodeIsIllegal opcode = true ↔ opcode.toNat = 0 ∨ 0x0A ≤ opcode.toNat := by
  simp [opcodeIsIllegal, ← BitVec.toNat_inj]

theorem toNat_opcode_of_toNat {w : CommandWord} {op x : Nat} (hop : op < 2 ^ 8) (hw : w.toNat = op + 2 ^ 8 * x) :
    (field w 0 8).toNat = op := by
  rw [toNat_opcode, hw]
  omega

section Opcodes

variable {w : CommandWord}

theorem decodeCommand_bits (h : (field w 0 8).toNat = 1) :
    decodeCommand w = .bits (field w 8 128) (field w 136 8) (field w 144 8) := by
  simp only [decodeCommand, h]

theorem decodeCommand_split (h : (field w 0 8).toNat = 2) :
    decodeCommand w = .split (field w 8 64) := by
  simp only [decodeCommand, h]

theorem decodeCommand_pteDecode (h : (field w 0 8).toNat = 3) :
    decodeCommand w = .pteDecode (field w 8 8) (field w 16 64) (field w 80 16) (field w 96 64) := by
  simp only [decodeCommand, h]

theorem decodeCommand_resolve (h : (field w 0 8).toNat = 4) :
    decodeCommand w = .resolve (field w 8 64) (field w 72 64) := by
  simp only [decodeCommand, h]

theorem decodeCommand_read (h : (field w 0 8).toNat = 5) :
    decodeCommand w = .read (field w 8 64) (field w 72 64) (field w 136 64) := by
  simp only [decodeCommand, h]

theorem decodeCommand_segCreate (h : (field w 0 8).toNat = 6) :
    decodeCommand w = .segCreate (field w 8 8) (field w 16 128) := by
  simp only [decodeCommand, h]

theorem decodeCommand_gateDecode (h : (field w 0 8).toNat = 7) :
    decodeCommand w = .gateDecode (field w 8 128) := by
  simp only [decodeCommand, h]

theorem decodeCommand_gdt (h : (field w 0 8).toNat = 8) :
    decodeCommand w = .gdt (field w 8 64) (field w 72 64) (field w 136 16) := by
  simp only [decodeCommand, h]

theorem decodeCommand_idt (h : (field w 0 8).toNat = 9) :
    decodeCommand w = .idt (field w 8 64) (field w 72 64) (field w 136 16) := by
  simp only [decodeCommand, h]

end Opcodes

/-- A command word that the encoding of `i` makes decodes to `i`: its value is that of the opcode and the operands, each in
its place (R301). -/
theorem decodeCommand_commandWord {i : Instr} (hkind : i.kind = .command) (hwf : i.wf = true) :
    decodeCommand (commandWord i) = i := by
  cases i with
  | bits value start nbits =>
    have hw : (commandWord (.bits value start nbits)).toNat =
        1 + 2 ^ 8 * (value.toNat + 2 ^ 128 * (start.toNat + 2 ^ 8 * nbits.toNat)) := by
      rw [toNat_commandWord (by simp [encode])]
      simp [encode, le, le_append, le_bytesLE]
      omega
    rw [decodeCommand_bits (toNat_opcode_of_toNat (by decide) hw), Instr.bits.injEq]
    exact ⟨field_eq_of_div_mod (by omega), field_eq_of_div_mod (by omega), field_eq_of_div_mod (by omega)⟩
  | split va =>
    have hw : (commandWord (.split va)).toNat =
        2 + 2 ^ 8 * va.toNat := by
      rw [toNat_commandWord (by simp [encode])]
      simp [encode, le, le_bytesLE]
      omega
    rw [decodeCommand_split (toNat_opcode_of_toNat (by decide) hw), Instr.split.injEq]
    exact field_eq_of_div_mod (by omega)
  | pteDecode level tableBase index raw =>
    have hw : (commandWord (.pteDecode level tableBase index raw)).toNat =
        3 + 2 ^ 8 * (level.toNat + 2 ^ 8 * (tableBase.toNat + 2 ^ 64 * (index.toNat + 2 ^ 16 * raw.toNat))) := by
      rw [toNat_commandWord (by simp [encode])]
      simp [encode, le, le_append, le_bytesLE]
      omega
    rw [decodeCommand_pteDecode (toNat_opcode_of_toNat (by decide) hw), Instr.pteDecode.injEq]
    exact ⟨field_eq_of_div_mod (by omega), field_eq_of_div_mod (by omega),
      field_eq_of_div_mod (by omega), field_eq_of_div_mod (by omega)⟩
  | resolve root va =>
    have hw : (commandWord (.resolve root va)).toNat =
        4 + 2 ^ 8 * (root.toNat + 2 ^ 64 * va.toNat) := by
      rw [toNat_commandWord (by simp [encode])]
      simp [encode, le, le_append, le_bytesLE]
      omega
    rw [decodeCommand_resolve (toNat_opcode_of_toNat (by decide) hw), Instr.resolve.injEq]
    exact ⟨field_eq_of_div_mod (by omega), field_eq_of_div_mod (by omega)⟩
  | read root va length =>
    have hw : (commandWord (.read root va length)).toNat =
        5 + 2 ^ 8 * (root.toNat + 2 ^ 64 * (va.toNat + 2 ^ 64 * length.toNat)) := by
      rw [toNat_commandWord (by simp [encode])]
      simp [encode, le, le_append, le_bytesLE]
      omega
    rw [decodeCommand_read (toNat_opcode_of_toNat (by decide) hw), Instr.read.injEq]
    exact ⟨field_eq_of_div_mod (by omega), field_eq_of_div_mod (by omega), field_eq_of_div_mod (by omega)⟩
  | segCreate n b =>
    have hw : (commandWord (.segCreate n b)).toNat =
        6 + 2 ^ 8 * (n.toNat + 2 ^ 8 * b.toNat) := by
      rw [toNat_commandWord (by simp [encode])]
      simp [encode, le, le_bytesLE]
      omega
    rw [decodeCommand_segCreate (toNat_opcode_of_toNat (by decide) hw), Instr.segCreate.injEq]
    exact ⟨field_eq_of_div_mod (by omega), field_eq_of_div_mod (by omega)⟩
  | gateDecode b =>
    have hw : (commandWord (.gateDecode b)).toNat =
        7 + 2 ^ 8 * b.toNat := by
      rw [toNat_commandWord (by simp [encode])]
      simp [encode, le, le_bytesLE]
      omega
    rw [decodeCommand_gateDecode (toNat_opcode_of_toNat (by decide) hw), Instr.gateDecode.injEq]
    exact field_eq_of_div_mod (by omega)
  | gdt root base limit =>
    have hw : (commandWord (.gdt root base limit)).toNat =
        8 + 2 ^ 8 * (root.toNat + 2 ^ 64 * (base.toNat + 2 ^ 64 * limit.toNat)) := by
      rw [toNat_commandWord (by simp [encode])]
      simp [encode, le, le_append, le_bytesLE]
      omega
    rw [decodeCommand_gdt (toNat_opcode_of_toNat (by decide) hw), Instr.gdt.injEq]
    exact ⟨field_eq_of_div_mod (by omega), field_eq_of_div_mod (by omega), field_eq_of_div_mod (by omega)⟩
  | idt root base limit =>
    have hw : (commandWord (.idt root base limit)).toNat =
        9 + 2 ^ 8 * (root.toNat + 2 ^ 64 * (base.toNat + 2 ^ 64 * limit.toNat)) := by
      rw [toNat_commandWord (by simp [encode])]
      simp [encode, le, le_append, le_bytesLE]
      omega
    rw [decodeCommand_idt (toNat_opcode_of_toNat (by decide) hw), Instr.idt.injEq]
    exact ⟨field_eq_of_div_mod (by omega), field_eq_of_div_mod (by omega), field_eq_of_div_mod (by omega)⟩
  | illegalCommand opcode =>
    have hw : (commandWord (.illegalCommand opcode)).toNat = opcode.toNat := by
      rw [toNat_commandWord (by simp [encode])]
      simp [encode, le]
    have hlt := opcode.isLt
    have hop := (opcodeIsIllegal_iff opcode).mp hwf
    rw [decodeCommand_of_illegal_opcode (by omega), hw, Nat.mod_eq_of_lt hlt, BitVec.ofNat_toNat, BitVec.setWidth_eq]
  | _ => cases hkind

@[simp] theorem kind_decodeCommand (w : CommandWord) : (decodeCommand w).kind = .command := by
  unfold decodeCommand
  split <;> rfl

theorem wf_decodeCommand (w : CommandWord) : (decodeCommand w).wf = true := by
  unfold decodeCommand
  split
  case h_10 =>
    refine (opcodeIsIllegal_iff (field w 0 8)).mpr ?_
    simp only [imp_false] at *
    omega
  all_goals rfl

/-- A command word has the bits of the encoding of its command, and behind them what the decoder does not look at. -/
theorem decodeCommand_ofNat_mod (w : CommandWord) :
    decodeCommand (BitVec.ofNat 200 (w.toNat % 2 ^ (8 * commandLength (field w 0 8)))) = decodeCommand w := by
  rw [← le_encode_decodeCommand]
  exact decodeCommand_commandWord (kind_decodeCommand w) (wf_decodeCommand w)

/-! ### The decoder on bytes -/

theorem decode_command {opcode : Byte} {bs : List Byte} (h : commandLength opcode ≤ (opcode :: bs).length) :
    decode .command (opcode :: bs) =
      .ok (decodeCommand (BitVec.ofNat 200 (le ((opcode :: bs).take (commandLength opcode))))) :=
  if_neg h.not_gt

theorem decode_entry (L : Level) {bs : List Byte} (h : 8 ≤ bs.length) :
    decode (.entry L) bs = .ok (entryRow L (BitVec.ofNat 64 (le (bs.take 8)))) :=
  if_neg h.not_gt

theorem decode_segment {bs : List Byte} (h : 8 ≤ bs.length) :
    decode .segment bs = .ok (segmentRow (BitVec.ofNat 64 (le (bs.take 8)))) :=
  if_neg h.not_gt

theorem decode_gate {bs : List Byte} (h : 16 ≤ bs.length) :
    decode .gate bs = .ok (gateRow (BitVec.ofNat 128 (le (bs.take 16)))) :=
  if_neg h.not_gt

/-- A command's encoding starts with its opcode, which tells how long it is. -/
theorem exists_encode_eq_cons {i : Instr} (hkind : i.kind = .command) (hwf : i.wf = true) :
    ∃ opcode bs, encode i = opcode :: bs ∧ (encode i).length = commandLength opcode := by
  obtain ⟨w, rfl⟩ : ∃ w, i = decodeCommand w := ⟨_, (decodeCommand_commandWord hkind hwf).symm⟩
  obtain ⟨bs, hbs⟩ := exists_encode_decodeCommand_eq_cons w
  exact ⟨field w 0 8, bs, hbs, length_encode_decodeCommand w⟩

theorem decode_encode_append {i : Instr} (hwf : i.wf = true) (rest : List Byte) :
    decode i.kind (encode i ++ rest) = .ok i := by
  cases hkind : i.kind with
  | command =>
    obtain ⟨opcode, bs, hencode, hlength⟩ := exists_encode_eq_cons hkind hwf
    have htake : (opcode :: (bs ++ rest)).take (commandLength opcode) = encode i := by
      rw [← List.cons_append, ← hencode, List.take_left' hlength]
    rw [hencode, List.cons_append, decode_command (by simp [← hlength, hencode]), htake]
    exact congrArg _ (decodeCommand_commandWord hkind hwf)
  | entry L =>
    obtain ⟨raw, rfl⟩ := exists_entryRow_of_wf hkind hwf
    rw [encode_entryRow, decode_entry L (by simp), take_bytesLE_append, ofNat_le_bytesLE (k := 8) rfl]
  | segment =>
    obtain ⟨d, rfl⟩ := exists_segmentRow_of_wf hkind hwf
    rw [encode_segmentRow, decode_segment (by simp), take_bytesLE_append, ofNat_le_bytesLE (k := 8) rfl]
  | gate =>
    cases i with
    | gatedesc q => rw [encode, decode_gate (by simp), take_bytesLE_append, ofNat_le_bytesLE (k := 16) rfl, gateRow]
    | _ => cases hkind

/-- The bytes of a command, as many as its opcode tells, are the encoding of what they decode to. -/
theorem encode_decodeCommand_ofNat {opcode : Byte} {bs : List Byte} (h : (opcode :: bs).length = commandLength opcode) :
    encode (decodeCommand (BitVec.ofNat 200 (le (opcode :: bs)))) = opcode :: bs := by
  have hvalue : (BitVec.ofNat 200 (le (opcode :: bs))).toNat = le (opcode :: bs) := by
    have hmax := (commandLength_mem opcode).2
    exact toNat_ofNat_le (by omega)
  have hop : field (BitVec.ofNat 200 (le (opcode :: bs))) 0 8 = opcode := by
    apply BitVec.eq_of_toNat_eq
    have hlt := opcode.isLt
    rw [toNat_opcode, hvalue, le]
    omega
  have hlt := le_lt (opcode :: bs)
  apply eq_of_le_eq
  · rw [length_encode_decodeCommand, hop, h]
  · rw [le_encode_decodeCommand, hop, hvalue, ← h, Nat.mod_eq_of_lt hlt]

/-- What decodes as a command has the bytes that its opcode asks for. -/
theorem exists_of_decode_command {bs : List Byte} {i : Instr} (h : decode .command bs = .ok i) :
    ∃ opcode tail, bs.take (tail.length + 1) = opcode :: tail ∧ (opcode :: tail).length = commandLength opcode ∧
      i = decodeCommand (BitVec.ofNat 200 (le (opcode :: tail))) := by
  cases bs with
  | nil => cases h
  | cons opcode bs =>
    by_cases hlength : commandLength opcode ≤ (opcode :: bs).length
    · rw [decode_command hlength] at h
      obtain ⟨n, hn⟩ := Nat.exists_eq_add_of_le' (commandLength_mem opcode).1
      have htail : (bs.take n).length = n := by
        rw [hn, List.length_cons] at hlength
        rw [List.length_take]
        omega
      rw [hn, List.take_succ_cons] at h
      exact ⟨opcode, bs.take n, by rw [htail, List.take_succ_cons], by rw [List.length_cons, htail, hn],
        (Except.ok.inj h).symm⟩
    · rw [decode, if_pos (not_le.mp hlength)] at h
      cases h

/-- What decodes is a well-formed instruction of the kind it was read as, and its encoding is what was read. -/
theorem of_decode_eq_ok {k : FetchKind} {bs : List Byte} {i : Instr} (h : decode k bs = .ok i) :
    i.wf = true ∧ i.kind = k ∧ encode i = bs.take (encode i).length := by
  cases k with
  | command =>
    obtain ⟨opcode, tail, htake, hlength, rfl⟩ := exists_of_decode_command h
    rw [encode_decodeCommand_ofNat hlength, List.length_cons, htake]
    exact ⟨wf_decodeCommand _, kind_decodeCommand _, rfl⟩
  | entry L =>
    by_cases hlength : 8 ≤ bs.length
    · rw [decode_entry L hlength] at h
      obtain rfl := Except.ok.inj h
      refine ⟨wf_entryRow _ _, kind_entryRow _ _, ?_⟩
      rw [encode_entryRow, length_bytesLE]
      exact (bytesLE_ofNat_le_take rfl hlength)
    · rw [decode, if_pos (not_le.mp hlength)] at h
      cases h
  | segment =>
    by_cases hlength : 8 ≤ bs.length
    · rw [decode_segment hlength] at h
      obtain rfl := Except.ok.inj h
      refine ⟨wf_segmentRow _, kind_segmentRow _, ?_⟩
      rw [encode_segmentRow, length_bytesLE]
      exact (bytesLE_ofNat_le_take rfl hlength)
    · rw [decode, if_pos (not_le.mp hlength)] at h
      cases h
  | gate =>
    by_cases hlength : 16 ≤ bs.length
    · rw [decode_gate hlength] at h
      obtain rfl := Except.ok.inj h
      refine ⟨rfl, rfl, ?_⟩
      rw [gateRow, encode, length_bytesLE]
      exact bytesLE_ofNat_le_take rfl hlength
    · rw [decode, if_pos (not_le.mp hlength)] at h
      cases h

/-! ### Decoding for a step -/

/-- The bytes of a command word decode to its command. -/
theorem decode_command_bytesLE (w : CommandWord) : decode .command (bytesLE w.toNat 25) = .ok (decodeCommand w) := by
  have hop : BitVec.ofNat 8 w.toNat = field w 0 8 := BitVec.eq_of_toNat_eq (by rw [toNat_opcode, BitVec.toNat_ofNat])
  have hle := (commandLength_mem (field w 0 8)).2
  have hcons : bytesLE w.toNat 25 = field w 0 8 :: bytesLE (w.toNat / 256) 24 := by rw [bytesLE, hop]
  rw [hcons, decode_command (by simpa using hle), ← hcons, take_bytesLE _ hle, le_bytesLE, decodeCommand_ofNat_mod]

end Sys2Proof

namespace Sys2Proof.Certificates

/-- Settles O6, by the kind of the instruction. -/
theorem decodeEncodeRoundTrip : Obligations.DecodeEncodeRoundTrip :=
  fun _ rest hwf => decode_encode_append hwf rest

/-- Settles O7, by the kind the bytes were read as. -/
theorem decodedBytesAreTheEncoding : Obligations.DecodedBytesAreTheEncoding :=
  fun _ _ _ h => of_decode_eq_ok h

end Sys2Proof.Certificates

/-!
What a step can do, whatever RSP, the abort input and the read log hold. Every operation either ends the command or goes on
with other frames (`Move`); after an answered read the abort input is sampled exactly where another read follows
(spec/60_exceptions.md R712). Every move from a state in order is in order.
-/

namespace Sys2Proof.Machine

open Sys2Proof.Safety

/-! ### Moves -/

/-- What an operation does not look at: the last outcome, the abort input and the reads so far (10_state.md R125, R127). -/
structure Record where
  rsp : Option Response
  aborts : List Bool
  readLog : List ReadEvent

/-- The state with another record. -/
def State.within (s : State) (x : Record) : State :=
  { s with rsp := x.rsp, aborts := x.aborts, readLog := x.readLog }

def State.record (s : State) : Record where
  rsp := s.rsp
  aborts := s.aborts
  readLog := s.readLog

theorem State.within_record (s : State) : s.within s.record = s := rfl

/-- What an operation decides on: the end of the command with a response, or going on in the state `t`, of which the record
and the reader's answers are not looked at. -/
inductive Move where
  | ends (r : Response)
  | goesOn (t : State)

/-- The state after a move. -/
def Move.apply : Move → State → State
  | .ends r, s => s.endCommand r
  | .goesOn t, s => { t with rsp := s.rsp, answers := s.answers, aborts := s.aborts, readLog := s.readLog }

/-- A read follows in the state `t` (R712). -/
abbrev State.ReadsNext (t : State) : Prop := t.phase = .walk ∨ t.phase = .range

/-- A move and, after an answered read, the sampling of the abort input where another read follows (R712). -/
def Move.run (afterRead : Bool) (m : Move) (s : State) : State :=
  if afterRead = true ∧ (m.apply s).ReadsNext then (m.apply s).sampleAbort else m.apply s

theorem Move.run_false (m : Move) (s : State) : m.run false s = m.apply s := if_neg (by simp)

theorem State.not_readsNext_of_idle {t : State} (h : t.phase = .idle) : ¬ t.ReadsNext := by
  simp [State.ReadsNext, h]

theorem Move.run_of_not_readsNext {m : Move} {s : State} (h : ¬ (m.apply s).ReadsNext) (afterRead : Bool) :
    m.run afterRead s = m.apply s := if_neg fun hboth => h hboth.2

theorem Move.run_of_readsNext {m : Move} {s : State} (h : (m.apply s).ReadsNext) :
    m.run true s = (m.apply s).sampleAbort := if_pos ⟨rfl, h⟩

theorem Move.run_ends (afterRead : Bool) (r : Response) (s : State) :
    (Move.ends r).run afterRead s = s.endCommand r :=
  Move.run_of_not_readsNext (State.not_readsNext_of_idle rfl) afterRead

/-! ### States in order -/

/-- The part of the sequencer's invariant that no step touches. -/
structure GuestOk (s : State) : Prop where
  config : ConfigLegal s
  memory : s.mem.wf = true

theorem guestOk_of_sequencerInv {s : State} (h : SequencerInv s) : GuestOk s := ⟨h.config, h.memory⟩

/-- The invariant looks at the guest and the frames only. -/
theorem sequencerInv_congr {s t : State} (h : SequencerInv s) (hguest : t.guest = s.guest) (hwalk : t.walk = s.walk)
    (hrange : t.range = s.range) (htable : t.table = s.table) : SequencerInv t := by
  obtain ⟨hmem, -, harch, hva, hm⟩ := State.guest_eq_iff.mp hguest
  have hmEq : t.m = s.m := State.m_eq_of_guest_eq hguest
  have haccepts (va : Word) : t.acceptsVa va = s.acceptsVa va := by rw [State.acceptsVa, State.acceptsVa, hva]
  exact
    { config := ⟨harch ▸ h.config.arch, hva ▸ h.config.vaBits, hmEq ▸ h.config.minM, hmEq ▸ h.config.maxM⟩
      memory := hmem ▸ h.memory
      nesting := by rw [hwalk, hrange, htable]; exact h.nesting
      walk := by
        intro f hf
        have hok := h.walk f (hwalk ▸ hf)
        exact ⟨hok.split, haccepts f.va ▸ hok.accepted, hok.depth, hok.entries, hok.atRoot, hmEq ▸ hok.aligned⟩
      range := by
        intro r hr
        have hok := h.range r (hrange ▸ hr)
        exact ⟨hok.remaining, hwalk ▸ hok.walking, hwalk ▸ hmEq ▸ hok.copying⟩
      table := by
        intro t' ht
        have hok := h.table t' (htable ▸ ht)
        exact ⟨hrange ▸ hok.reading, hwalk ▸ hrange ▸ hok.decoding⟩ }

theorem GuestOk.congr {s t : State} (h : GuestOk s) (hguest : t.guest = s.guest) : GuestOk t := by
  obtain ⟨hmem, -, harch, hva, -⟩ := State.guest_eq_iff.mp hguest
  have hmEq : t.m = s.m := State.m_eq_of_guest_eq hguest
  exact ⟨⟨harch ▸ h.config.arch, hva ▸ h.config.vaBits, hmEq ▸ h.config.minM, hmEq ▸ h.config.maxM⟩, hmem ▸ h.memory⟩

/-- With no frame, the invariant is that of the guest. -/
theorem GuestOk.sequencerInv_of_idle {s : State} (h : GuestOk s) (hidle : s.phase = .idle) : SequencerInv s := by
  obtain ⟨hwalk, hrange, htable⟩ := s.phase_idle_iff.mp hidle
  exact
    { config := h.config
      memory := h.memory
      nesting := by simp [hwalk]
      walk := by simp [hwalk]
      range := by simp [hrange]
      table := by simp [htable] }

/-- A move in order: the response is one, or the sequencer goes on in order. -/
def Move.InOrder (M : Nat) : Move → Prop
  | .ends r => ResponseOk M r
  | .goesOn t => SequencerInv t

theorem sequencerInv_sampleAbort {s : State} (h : SequencerInv s) : SequencerInv s.sampleAbort := by
  obtain ⟨-, hs⟩ | ⟨rest, -, hs⟩ | ⟨rest, -, hs⟩ := s.sampleAbort_cases <;> rw [hs]
  · exact h
  · exact sequencerInv_congr h rfl rfl rfl rfl
  · refine GuestOk.sequencerInv_of_idle ?_ rfl
    exact GuestOk.congr (guestOk_of_sequencerInv h) rfl

theorem sequencerInv_apply {m : Move} {s : State} (hs : GuestOk s) (h : m.InOrder s.m) : SequencerInv (m.apply s) := by
  cases m with
  | ends r =>
    refine GuestOk.sequencerInv_of_idle ?_ rfl
    exact GuestOk.congr hs rfl
  | goesOn t => exact sequencerInv_congr (s := t) h rfl rfl rfl rfl

theorem sequencerInv_run {m : Move} {s : State} (hs : GuestOk s) (h : m.InOrder s.m) (afterRead : Bool) :
    SequencerInv (m.run afterRead s) := by
  unfold Move.run
  split
  · exact sequencerInv_sampleAbort (sequencerInv_apply hs h)
  · exact sequencerInv_apply hs h

/-! ### The frames in order -/

/-- A request of READ between two pages: a table command that waits for it has decoded nothing and has the rest of its
bytes to come (R124). -/
structure RequestOk (s : State) (r : RangeFrame) : Prop where
  copy : r.copy = none
  table : ∀ t, s.table = some t → t.buf = none ∧ t.off = 0 ∧ t.segs = [] ∧ t.gates = [] ∧ r.root = t.root ∧
    r.out.length + r.remaining.toNat = t.bytes

theorem copied_of_copy_eq_none {r : RangeFrame} (h : r.copy = none) : copied r = 0 := by
  rw [copied, h]

theorem walkFrameOk_first {s : State} {root va : Word} (h : s.acceptsVa va = true) :
    WalkFrameOk s (firstWalkFrame root va) where
  split := rfl
  accepted := h
  depth := rfl
  entries := by simp [DescendedThrough, firstWalkFrame]
  atRoot _ := rfl
  aligned h := absurd rfl h

/-- The walk of a RESOLVE. -/
theorem sequencerInv_resolving {s : State} (hs : GuestOk s) (hrange : s.range = none) (htable : s.table = none)
    {f : WalkFrame} (hf : WalkFrameOk s f) : SequencerInv { s with walk := some f } where
  config := ⟨hs.config.arch, hs.config.vaBits, hs.config.minM, hs.config.maxM⟩
  memory := hs.memory
  nesting := by simp [htable]
  walk := by
    rintro _ ⟨rfl⟩
    exact { hf with }
  range := by simp [hrange]
  table := by simp [htable]

/-- The walk of a page of a READ. -/
theorem sequencerInv_walking {s : State} (hs : GuestOk s) {r : RangeFrame} (hr : RequestOk s r) (hremaining : r.remaining ≠ 0)
    {f : WalkFrame} (hf : WalkFrameOk s f) (hroot : f.root = r.root) (hva : f.va = r.cur) :
    SequencerInv { s with range := some r, walk := some f } where
  config := ⟨hs.config.arch, hs.config.vaBits, hs.config.minM, hs.config.maxM⟩
  memory := hs.memory
  nesting := by simp
  walk := by
    rintro _ ⟨rfl⟩
    exact { hf with }
  range := by
    rintro _ ⟨rfl⟩
    exact ⟨hremaining, fun _ => ⟨f, rfl, hroot, hva⟩, fun c hc => by simp [hr.copy] at hc⟩
  table := by
    intro t ht
    obtain ⟨hbuf, hoff, hsegs, hgates, htroot, hbytes⟩ := hr.table t ht
    refine ⟨fun _ => ⟨hoff, hsegs, hgates, r, rfl, htroot, ?_⟩, fun buf h => by simp [hbuf] at h⟩
    rw [copied_of_copy_eq_none hr.copy, hbytes, Nat.add_zero]

/-- A chunk of a READ while it is copied: inside the request and below `2^M` (R123). -/
structure ChunkOk (M : Nat) (r : RangeFrame) (c : CopyState) : Prop where
  left : c.chunkLeft ≠ 0
  leftLe : c.chunkLeft.toNat ≤ c.chunk.toNat
  chunkLe : c.chunk.toNat ≤ r.remaining.toNat
  copied : c.chunk.toNat - c.chunkLeft.toNat ≤ r.out.length
  below : c.pa.toNat + c.chunkLeft.toNat ≤ 2 ^ M

/-- The copy of a chunk. -/
theorem sequencerInv_copying {s : State} (hs : GuestOk s) {r : RangeFrame} {c : CopyState} (hremaining : r.remaining ≠ 0)
    (hc : ChunkOk s.m r c)
    (htable : ∀ t, s.table = some t → t.buf = none ∧ t.off = 0 ∧ t.segs = [] ∧ t.gates = [] ∧ r.root = t.root ∧
      r.out.length + r.remaining.toNat = t.bytes + (c.chunk.toNat - c.chunkLeft.toNat)) :
    SequencerInv (s.copying r c) where
  config := ⟨hs.config.arch, hs.config.vaBits, hs.config.minM, hs.config.maxM⟩
  memory := hs.memory
  nesting := by simp [State.copying]
  walk := by simp [State.copying]
  range := by
    rintro _ ⟨rfl⟩
    refine ⟨hremaining, fun h => by simp at h, ?_⟩
    rintro _ ⟨rfl⟩
    exact ⟨rfl, hc.left, hc.leftLe, hc.chunkLe, hc.copied, hc.below⟩
  table := by
    intro t ht
    obtain ⟨hbuf, hoff, hsegs, hgates, htroot, hbytes⟩ := htable t ht
    exact ⟨fun _ => ⟨hoff, hsegs, hgates, _, rfl, htroot, hbytes⟩, fun buf h => by simp [hbuf] at h⟩

/-- A TABLE frame at a slot or at its end (R124): the cursor is the sum of the sizes decoded. -/
structure CursorOk (t : TableFrame) (buf : List Byte) : Prop where
  holds : t.buf = some buf
  length : buf.length = t.bytes
  le : t.off ≤ t.bytes
  gdt : t.kind = .gdt → t.off = (t.segs.map SegDesc.size).sum ∧ t.gates = []
  idt : t.kind = .idt → t.off = 16 * t.gates.length ∧ t.segs = []

/-- The decoding of a table. -/
theorem sequencerInv_decoding {s : State} (hs : GuestOk s) {t : TableFrame} {buf : List Byte} (ht : CursorOk t buf) :
    SequencerInv (s.decoding t) where
  config := ⟨hs.config.arch, hs.config.vaBits, hs.config.minM, hs.config.maxM⟩
  memory := hs.memory
  nesting := by simp [State.decoding]
  walk := by simp [State.decoding]
  range := by simp [State.decoding]
  table := by
    rintro _ ⟨rfl⟩
    refine ⟨fun h => by simp [ht.holds] at h, fun buf' hbuf' => ?_⟩
    obtain rfl : buf = buf' := Option.some.inj (ht.holds.symm.trans hbuf')
    refine ⟨rfl, rfl, ht.length, ht.le, ?_⟩
    have hgdt := ht.gdt
    have hidt := ht.idt
    cases hk : t.kind with
    | gdt => exact hgdt hk
    | idt => exact hidt hk

/-! ### The frames of a state in order -/

section InOrder

variable {s : State} (h : SequencerInv s)
include h

/-- A READ whose page is walked is between two pages. -/
theorem requestOk_of_walk {f : WalkFrame} {r : RangeFrame} (hwalk : s.walk = some f) (hrange : s.range = some r) :
    RequestOk s r := by
  have hcopy : r.copy = none := by
    by_contra hne
    obtain ⟨c, hc⟩ := Option.ne_none_iff_exists'.mp hne
    have hnone := ((h.range r hrange).copying c hc).1
    simp [hwalk] at hnone
  refine ⟨hcopy, fun t ht => ?_⟩
  have hok := h.table t ht
  have hbuf : t.buf = none := by
    by_contra hne
    obtain ⟨buf, hbuf⟩ := Option.ne_none_iff_exists'.mp hne
    have hnone := (hok.decoding buf hbuf).1
    simp [hwalk] at hnone
  obtain ⟨hoff, hsegs, hgates, r', hr', hroot, hbytes⟩ := hok.reading hbuf
  obtain rfl : r = r' := Option.some.inj (hrange.symm.trans hr')
  rw [copied_of_copy_eq_none hcopy, Nat.add_zero] at hbytes
  exact ⟨hbuf, hoff, hsegs, hgates, hroot, hbytes⟩

/-- The chunk of a READ that copies one. -/
theorem chunkOk_of_copy {r : RangeFrame} {c : CopyState} (hrange : s.range = some r) (hcopy : r.copy = some c) :
    ChunkOk s.m r c := by
  obtain ⟨-, hleft, hleftLe, hchunkLe, hcopied, hbelow⟩ := (h.range r hrange).copying c hcopy
  exact ⟨hleft, hleftLe, hchunkLe, hcopied, hbelow⟩

/-- The table that a READ is for has decoded nothing. -/
theorem table_of_copy {r : RangeFrame} {c : CopyState} (hrange : s.range = some r) (hcopy : r.copy = some c)
    {t : TableFrame} (ht : s.table = some t) : t.buf = none ∧ t.off = 0 ∧ t.segs = [] ∧ t.gates = [] ∧ r.root = t.root ∧
      r.out.length + r.remaining.toNat = t.bytes + (c.chunk.toNat - c.chunkLeft.toNat) := by
  have hok := h.table t ht
  have hbuf : t.buf = none := by
    by_contra hne
    obtain ⟨buf, hbuf⟩ := Option.ne_none_iff_exists'.mp hne
    have hnone := (hok.decoding buf hbuf).2.1
    simp [hrange] at hnone
  obtain ⟨hoff, hsegs, hgates, r', hr', hroot, hbytes⟩ := hok.reading hbuf
  obtain rfl : r = r' := Option.some.inj (hrange.symm.trans hr')
  have hcopied : copied r = c.chunk.toNat - c.chunkLeft.toNat := by rw [copied, hcopy]
  exact ⟨hbuf, hoff, hsegs, hgates, hroot, hcopied ▸ hbytes⟩

/-- With no READ, the table is read and its cursor in order. -/
theorem exists_cursorOk {t : TableFrame} (hrange : s.range = none) (ht : s.table = some t) :
    ∃ buf, CursorOk t buf := by
  have hok := h.table t ht
  cases hbuf : t.buf with
  | none =>
    obtain ⟨-, -, -, r, hr, -⟩ := hok.reading hbuf
    simp [hrange] at hr
  | some buf =>
    obtain ⟨-, -, hlength, hle, hkind⟩ := hok.decoding buf hbuf
    exact ⟨buf, hbuf, hlength, hle, fun hk => by rwa [hk] at hkind, fun hk => by rwa [hk] at hkind⟩

end InOrder

/-! ### The walk in order -/

theorem ne_l1_of_form_table {L : Level} {raw : Word} (h : form L raw = .table) : L ≠ .l1 := by
  rintro rfl
  cases h

theorem frameIs_entry {s : State} (hs : GuestOk s) (f : WalkFrame) (raw : Word) :
    FrameIs s.m f.level raw (f.entry s.m raw) :=
  frameIs_decodeEntry hs.config.minM hs.config.maxM f.level f.tableBase _ raw

section Walk

variable {s : State} {f : WalkFrame} (hs : GuestOk s) (hf : WalkFrameOk s f)
include hf

theorem length_entries_lt : f.entries.length < 4 := by
  have hdepth := hf.depth
  have hpos := f.level.toNat_pos
  omega

theorem level_entry (raw : Word) : (f.entry s.m raw).level.toNat + f.entries.length = 4 := by
  have hdepth := hf.depth
  have hlevel : (f.entry s.m raw).level = f.level := rfl
  rw [hlevel]
  omega

/-- An entry that is not present ends the walk with no page (R433). -/
theorem translationOk_unmappedResult {raw : Word} (hp : raw.getLsbD 0 = false) :
    TranslationOk s.m (unmappedResult (f.entries ++ [f.entry s.m raw])) :=
  ⟨f.entries, f.entry s.m raw, rfl, length_entries_lt hf, hf.entries, level_entry hf raw, .inl ⟨hp, rfl, rfl, rfl⟩⟩

/-- The entries of a walk that goes down one level further. -/
theorem descendedThrough_append {raw : Word} (hp : raw.getLsbD 0 = true) (hform : form f.level raw = .table) :
    DescendedThrough (f.entries ++ [f.entry s.m raw]) := by
  intro k e hk
  rcases Nat.lt_trichotomy k f.entries.length with hlt | rfl | hgt
  · rw [List.getElem?_append_left hlt] at hk
    exact hf.entries k e hk
  · obtain rfl : f.entry s.m raw = e := by simpa using hk
    exact ⟨level_entry hf raw, hp, hform⟩
  · rw [List.getElem?_eq_none (by simp; omega)] at hk
    cases hk

include hs

/-- A present leaf ends the walk with its page (R432). -/
theorem translationOk_mappedResult {raw : Word} (hp : raw.getLsbD 0 = true) (hform : form f.level raw = .leaf) :
    TranslationOk s.m (mappedResult f.split f.level f.entries (f.entry s.m raw)) := by
  have hframe := frameIs_entry hs f raw
  have hlevel := ne_l4_of_form_leaf hform
  have hshift : (f.entry s.m raw).frameShift = indexShift f.level := by
    rw [← frameShift_eq_indexShift hlevel, ← hform]
    rfl
  have hle : (f.entry s.m raw).frameShift ≤ s.m :=
    (frameShift_le f.level (form f.level raw)).trans (le_trans (by decide) hs.config.minM)
  refine ⟨f.entries, f.entry s.m raw, rfl, length_entries_lt hf, hf.entries, level_entry hf raw,
    .inr ⟨hp, hform, _, _, rfl, rfl, rfl, hframe.aligned, ?_, ?_⟩⟩
  · calc (f.entry s.m raw).base.toNat + 2 ^ (f.entry s.m raw).frameShift
        = ((f.entry s.m raw).frameRef + 1) * 2 ^ (f.entry s.m raw).frameShift := by rw [hframe.base, Nat.add_one_mul]
      _ ≤ 2 ^ (s.m - (f.entry s.m raw).frameShift) * 2 ^ (f.entry s.m raw).frameShift :=
        Nat.mul_le_mul_right _ hframe.frameRefBound
      _ = 2 ^ s.m := by rw [← Nat.pow_add, Nat.sub_add_cancel hle]
  · rw [hf.split, toNat_levelOffset f.va hlevel, hshift]
    exact Nat.mod_lt _ (Nat.two_pow_pos _)

/-- The walk goes down through a present entry in table form (R430). -/
theorem walkFrameOk_descend {raw : Word} (hp : raw.getLsbD 0 = true) (hform : form f.level raw = .table) :
    WalkFrameOk s (f.descend s.m raw) := by
  have hbelow := toNat_below (ne_l1_of_form_table hform)
  have hdepth := hf.depth
  have hframe := frameIs_entry hs f raw
  have hshift : (f.entry s.m raw).frameShift = 12 := by
    refine hframe.shiftElse fun hlarge => (form_eq_table_iff f.level raw).mp hform ?_
    exact .inr ⟨hlarge.1.symm, hlarge.2⟩
  have hbase : (f.descend s.m raw).tableBase = (f.entry s.m raw).base := by
    rw [Entry.base, hshift]
    rfl
  have haligned := hframe.aligned
  rw [hshift] at haligned
  exact
    { split := hf.split
      accepted := hf.accepted
      depth := by
        have hlength : (f.descend s.m raw).entries.length = f.entries.length + 1 := by simp [WalkFrame.descend]
        have hL : (f.descend s.m raw).level = below f.level := rfl
        rw [hlength, hL]
        omega
      entries := descendedThrough_append hf hp hform
      atRoot := by
        intro hroot
        have hL : (f.descend s.m raw).level = below f.level := rfl
        rw [hL] at hroot
        cases hl : f.level <;> simp [hl, below] at hroot
      aligned := fun _ => by
        rw [hbase]
        exact ⟨haligned, hframe.below⟩ }

end Walk

/-- The first chunk of a page that a walk has mapped (R500, R501). -/
theorem chunkOk_beginChunk {M : Nat} (hM : M ≤ 52) {r : RangeFrame} (hremaining : r.remaining ≠ 0) {base : Word} {k : Nat}
    {offset : BitVec 30} (hoffset : offset.toNat < 2 ^ k) (hbelow : base.toNat + 2 ^ k ≤ 2 ^ M) :
    ∃ c, r.beginChunk base (2 ^ k) offset = { r with copy := some c } ∧ c.chunkLeft = c.chunk ∧ ChunkOk M r c := by
  have hM64 : 2 ^ M ≤ 2 ^ 52 := Nat.pow_le_pow_right (by decide) hM
  have hpos := BitVec.toNat_pos_of_ne_zero hremaining
  have hchunk : (BitVec.ofNat 64 (chunkLength (2 ^ k) offset r.remaining)).toNat =
      min (2 ^ k - offset.toNat) r.remaining.toNat := by
    rw [BitVec.toNat_ofNat, chunkLength, Nat.mod_eq_of_lt (by omega)]
  have hpa : (base + offset.setWidth 64).toNat = base.toNat + offset.toNat := by
    rw [BitVec.toNat_add, BitVec.toNat_setWidth_of_le (by decide), Nat.mod_eq_of_lt (by omega)]
  refine ⟨_, rfl, rfl, ?_, le_rfl, ?_, ?_, ?_⟩
  · rw [ne_eq, ← BitVec.toNat_inj, hchunk]
    have hzero : (0 : Word).toNat = 0 := rfl
    omega
  · simp only [hchunk]
    omega
  · simp
  · simp only [hchunk, hpa]
    omega

/-! ### The moves of the operations -/

/-- Run from `s`, whatever its record, `F` makes one move; the move is in order where `ok` holds. -/
def Makes (s : State) (afterRead : Bool) (ok : Prop) (F : State → State) : Prop :=
  ∃ m : Move, (ok → m.InOrder s.m) ∧ ∀ x, F (s.within x) = m.run afterRead (s.within x)

theorem Makes.mono {s : State} {afterRead : Bool} {ok ok' : Prop} {F : State → State} (h : Makes s afterRead ok F)
    (hok : ok' → ok) : Makes s afterRead ok' F := by
  obtain ⟨m, horder, hmove⟩ := h
  exact ⟨m, fun h' => horder (hok h'), hmove⟩

theorem makes_raise (s : State) (afterRead : Bool) (ok : Prop) (e : ErrInfo) : Makes s afterRead ok (·.raise e) :=
  ⟨.ends { status := errorCode e, payload := .error e }, fun _ => rfl, fun _ => (Move.run_ends _ _ _).symm⟩

theorem makes_complete (s : State) (afterRead : Bool) {ok : Prop} {p : Payload}
    (h : ok → ResponseOk s.m { status := 0, payload := p }) : Makes s afterRead ok (·.complete p) :=
  ⟨.ends { status := 0, payload := p }, h, fun _ => (Move.run_ends _ _ _).symm⟩

/-- Going on where no read follows. -/
theorem makes_goesOn {s t : State} {afterRead : Bool} {ok : Prop} {F : State → State} (hread : ¬ t.ReadsNext)
    (hok : ok → SequencerInv t) (hF : ∀ x, F (s.within x) = (Move.goesOn t).apply (s.within x)) :
    Makes s afterRead ok F :=
  ⟨.goesOn t, hok, fun x => (hF x).trans (Move.run_of_not_readsNext (m := .goesOn t) (s := s.within x) hread afterRead).symm⟩

/-- Going on before the first read of a command. -/
theorem makes_goesOn_first {s t : State} {ok : Prop} {F : State → State}
    (hok : ok → SequencerInv t) (hF : ∀ x, F (s.within x) = (Move.goesOn t).apply (s.within x)) :
    Makes s false ok F :=
  ⟨.goesOn t, hok, fun x => (hF x).trans (Move.run_false _ _).symm⟩

/-- Going on to another read after an answered one. -/
theorem makes_sampleAbort {s t : State} {ok : Prop} {F : State → State} (hread : t.ReadsNext)
    (hok : ok → SequencerInv t) (hF : ∀ x, F (s.within x) = ((Move.goesOn t).apply (s.within x)).sampleAbort) :
    Makes s true ok F :=
  ⟨.goesOn t, hok, fun x => (hF x).trans (Move.run_of_readsNext (m := .goesOn t) (s := s.within x) hread).symm⟩

theorem State.endRange_of_table_none {s : State} (h : s.table = none) (out : List Byte) :
    s.endRange out = s.complete (.bytes out) := by
  rw [State.endRange, h]

theorem State.endRange_of_table_some {s : State} {t : TableFrame} (h : s.table = some t) (out : List Byte) :
    s.endRange out = s.decoding { t with buf := some out } := by
  rw [State.endRange, h]
  rfl

/-- The end of a READ: its response, or the table that it was for is read. -/
theorem makes_endRange (s : State) (afterRead : Bool) (out : List Byte) :
    Makes s afterRead (GuestOk s ∧ ∀ t, s.table = some t →
      t.off = 0 ∧ t.segs = [] ∧ t.gates = [] ∧ out.length = t.bytes) (·.endRange out) := by
  cases ht : s.table with
  | none =>
    obtain ⟨m, horder, hmove⟩ := makes_complete s afterRead (ok := True) (p := .bytes out) fun _ => rfl
    exact ⟨m, fun _ => horder trivial, fun x => (State.endRange_of_table_none (s := s.within x) ht out).trans (hmove x)⟩
  | some t =>
    refine makes_goesOn (t := s.decoding { t with buf := some out }) (by simp [State.decoding, State.phase]) ?_
      fun x => State.endRange_of_table_some (s := s.within x) ht out
    rintro ⟨hs, htable⟩
    obtain ⟨hoff, hsegs, hgates, hlength⟩ := htable t rfl
    exact sequencerInv_decoding hs
      { holds := rfl, length := hlength, le := by simp [hoff], gdt := by simp [hoff, hsegs, hgates]
        idt := by simp [hoff, hsegs, hgates] }

/-- The head of READ's loop over pages: its end, the error of the next page's address, or that page's walk. -/
theorem makes_rangeLoop (s : State) (afterRead : Bool) (r : RangeFrame) :
    Makes s afterRead (GuestOk s ∧ RequestOk s r) (·.rangeLoop r afterRead) := by
  by_cases hremaining : r.remaining = 0
  · obtain ⟨m, horder, hmove⟩ := makes_endRange s afterRead r.out
    refine ⟨m, fun ⟨hs, hr⟩ => horder ⟨hs, fun t ht => ?_⟩,
      fun x => (State.rangeLoop_of_remaining_eq_zero hremaining afterRead).trans (hmove x)⟩
    obtain ⟨-, hoff, hsegs, hgates, -, hbytes⟩ := hr.table t ht
    exact ⟨hoff, hsegs, hgates, by simpa [hremaining] using hbytes⟩
  · cases haccepts : s.acceptsVa r.cur with
    | false =>
      obtain ⟨m, horder, hmove⟩ := makes_raise s afterRead (GuestOk s ∧ RequestOk s r) (.addressWidthViolation r.cur)
      refine ⟨m, horder, fun x => Eq.trans ?_ (hmove x)⟩
      exact (if_neg hremaining).trans (if_neg (by exact ne_true_of_eq_false haccepts))
    | true =>
      have hinv : GuestOk s ∧ RequestOk s r →
          SequencerInv { s with range := some r, walk := some (firstWalkFrame r.root r.cur) } :=
        fun ⟨hs, hr⟩ => sequencerInv_walking hs hr hremaining (walkFrameOk_first haccepts) rfl rfl
      cases afterRead with
      | false => exact makes_goesOn_first hinv fun x => (if_neg hremaining).trans (if_pos (by exact haccepts))
      | true =>
        exact makes_sampleAbort (.inl rfl) hinv fun x => (if_neg hremaining).trans (if_pos (by exact haccepts))

theorem State.endWalk_of_range_none {s : State} (h : s.range = none) (x : TranslationResult) :
    s.endWalk x = s.complete (.translation x) := by
  rw [State.endWalk, h]

theorem State.endWalk_of_mapped {s : State} {r : RangeFrame} (hrange : s.range = some r) {x : TranslationResult}
    {base : Word} {size : Nat} {offset : BitVec 30} (hbase : x.pageBase = some base) (hsize : x.pageSize = some size)
    (hoffset : x.pageOffset = some offset) :
    s.endWalk x = State.sampleAbort { s with walk := none, range := some (r.beginChunk base size offset) } := by
  simp only [State.endWalk, hrange, hbase, hsize, hoffset]

theorem State.endWalk_of_unmapped {s : State} {r : RangeFrame} (hrange : s.range = some r) {x : TranslationResult}
    (h : x.pageBase = none ∨ x.pageSize = none ∨ x.pageOffset = none) : s.endWalk x = s.raise (.unmappedRange r.cur) := by
  unfold State.endWalk
  rw [hrange]
  dsimp only
  split
  · next hbase hsize hoffset => simp [hbase, hsize, hoffset] at h
  · rfl

/-- The first chunk of a page whose walk is in order. -/
theorem sequencerInv_beginChunk {s : State} (hinv : SequencerInv s) {f : WalkFrame} (hwalk : s.walk = some f)
    {r : RangeFrame} (hrange : s.range = some r) {base : Word} {k : Nat} {offset : BitVec 30}
    (hbelow : base.toNat + 2 ^ k ≤ 2 ^ s.m) (hoffset : offset.toNat < 2 ^ k) :
    SequencerInv { s with walk := none, range := some (r.beginChunk base (2 ^ k) offset) } := by
  have hremaining := (hinv.range r hrange).remaining
  obtain ⟨c, hchunk, hstart, hc⟩ := chunkOk_beginChunk hinv.config.maxM hremaining hoffset hbelow
  rw [hchunk]
  refine sequencerInv_copying (guestOk_of_sequencerInv hinv) hremaining hc fun t ht => ?_
  rw [hstart, Nat.sub_self, Nat.add_zero]
  exact (requestOk_of_walk hinv hwalk hrange).table t ht

/-- The end of a walk: the response of RESOLVE, the error of an unmapped page, or the first chunk of a mapped one. -/
theorem makes_endWalk {s : State} {f : WalkFrame} (hwalk : s.walk = some f) (x : TranslationResult) :
    Makes s true (SequencerInv s ∧ TranslationOk s.m x) (·.endWalk x) := by
  obtain ⟨hrange, -⟩ | ⟨r, base, size, offset, hrange, hbase, hsize, hoffset, -⟩ | ⟨r, hrange, hnone, -⟩ := s.endWalk_cases x
  · obtain ⟨m, horder, hmove⟩ := makes_complete s true (ok := SequencerInv s ∧ TranslationOk s.m x)
      (p := .translation x) fun hok => ⟨rfl, hok.2⟩
    exact ⟨m, horder, fun y => (State.endWalk_of_range_none (s := s.within y) hrange x).trans (hmove y)⟩
  · refine makes_sampleAbort (t := { s with walk := none, range := some (r.beginChunk base size offset) }) (.inr rfl) ?_
      fun y => State.endWalk_of_mapped (s := s.within y) hrange hbase hsize hoffset
    rintro ⟨hinv, es, e, -, -, -, -, ⟨-, hnone, -⟩ | ⟨-, -, base', offset', hbase', hsize', hoffset', -, hbelow, hlt⟩⟩
    · rw [hbase] at hnone
      cases hnone
    · obtain rfl := Option.some.inj (hbase.symm.trans hbase')
      obtain rfl := Option.some.inj (hsize.symm.trans hsize')
      obtain rfl := Option.some.inj (hoffset.symm.trans hoffset')
      exact sequencerInv_beginChunk hinv hwalk hrange hbelow hlt
  · obtain ⟨m, horder, hmove⟩ := makes_raise s true (SequencerInv s ∧ TranslationOk s.m x) (.unmappedRange r.cur)
    exact ⟨m, horder, fun y => (State.endWalk_of_unmapped (s := s.within y) hrange hnone).trans (hmove y)⟩

/-- Another frame for the same walk. -/
theorem sequencerInv_setWalk {s : State} (hinv : SequencerInv s) {f f' : WalkFrame} (hwalk : s.walk = some f)
    (hf' : WalkFrameOk s f') (hroot : f'.root = f.root) (hva : f'.va = f.va) :
    SequencerInv { s with walk := some f' } := by
  have hs := guestOk_of_sequencerInv hinv
  cases hrange : s.range with
  | none =>
    have htable : s.table = none := by
      by_contra hne
      obtain ⟨t, ht⟩ := Option.ne_none_iff_exists'.mp hne
      exact hinv.nesting f t hwalk ht hrange
    exact sequencerInv_congr (sequencerInv_resolving hs hrange htable hf') rfl rfl hrange.symm rfl
  | some r =>
    have hr := requestOk_of_walk hinv hwalk hrange
    obtain ⟨g, hg, hgroot, hgva⟩ := (hinv.range r hrange).walking hr.copy
    obtain rfl : f = g := Option.some.inj (hwalk.symm.trans hg)
    refine sequencerInv_congr (sequencerInv_walking hs hr (hinv.range r hrange).remaining hf' ?_ ?_) rfl rfl rfl rfl
    · rw [hroot, hgroot]
    · rw [hva, hgva]

/-- One entry of a walk: its end, or the walk goes down. -/
theorem makes_visitEntry {s : State} {f : WalkFrame} (hwalk : s.walk = some f) (raw : Word) :
    Makes s true (SequencerInv s) (visitEntry · f raw) := by
  have hf (hinv : SequencerInv s) : WalkFrameOk s f := hinv.walk f hwalk
  cases hp : raw.getLsbD 0 with
  | false =>
    obtain ⟨m, horder, hmove⟩ := makes_endWalk hwalk (unmappedResult (f.entries ++ [f.entry s.m raw]))
    exact ⟨m, fun hinv => horder ⟨hinv, translationOk_unmappedResult (hf hinv) hp⟩,
      fun x => (visitEntry_of_not_present (s := s.within x) hp).trans (hmove x)⟩
  | true =>
    cases hform : form f.level raw with
    | leaf =>
      obtain ⟨m, horder, hmove⟩ := makes_endWalk hwalk (mappedResult f.split f.level f.entries (f.entry s.m raw))
      exact ⟨m, fun hinv => horder ⟨hinv, translationOk_mappedResult (guestOk_of_sequencerInv hinv) (hf hinv) hp hform⟩,
        fun x => (visitEntry_of_leaf (s := s.within x) hp hform).trans (hmove x)⟩
    | table =>
      refine makes_sampleAbort (t := { s with walk := some (f.descend s.m raw) }) (.inl rfl) (fun hinv => ?_)
        fun x => visitEntry_of_table (s := s.within x) hp hform
      have hdescend := walkFrameOk_descend (guestOk_of_sequencerInv hinv) (hf hinv) hp hform
      exact sequencerInv_setWalk hinv hwalk hdescend rfl rfl

/-- The chunk after a data read of `n` bytes that leaves some of it. -/
theorem chunkOk_after {M : Nat} (hM : M ≤ 52) {r : RangeFrame} {c : CopyState} (hc : ChunkOk M r c) {n : Nat}
    (hn : n ≤ c.chunkLeft.toNat) (hleft : c.chunkLeft - BitVec.ofNat 64 n ≠ 0) {bs : List Byte} (hbs : bs.length = n) :
    ChunkOk M { r with out := r.out ++ bs }
      { c with pa := c.pa + BitVec.ofNat 64 n, chunkLeft := c.chunkLeft - BitVec.ofNat 64 n } := by
  have hM64 : 2 ^ M ≤ 2 ^ 52 := Nat.pow_le_pow_right (by decide) hM
  have hsub := toNat_sub_ofNat hn
  have hbelow := hc.below
  have hleftLe := hc.leftLe
  have hcopied := hc.copied
  have hpa : (c.pa + BitVec.ofNat 64 n).toNat = c.pa.toNat + n := by
    rw [BitVec.toNat_add, BitVec.toNat_ofNat, Nat.add_mod_mod, Nat.mod_eq_of_lt (by omega)]
  refine ⟨hleft, ?_, hc.chunkLe, ?_, ?_⟩
  · simp only [hsub]
    omega
  · simp only [hsub, List.length_append, hbs]
    omega
  · simp only [hsub, hpa]
    omega

/-- What follows an answered data read: the copy goes on, or the loop over pages does. -/
theorem makes_afterDataRead {s : State} {r : RangeFrame} {c : CopyState} (hwalk : s.walk = none)
    (hrange : s.range = some r) (hcopy : r.copy = some c) {n : Nat} (hn : n ≤ c.chunkLeft.toNat) (v : Word) :
    Makes s true (SequencerInv s) (·.afterDataRead r c n v) := by
  have hsub := toNat_sub_ofNat hn
  by_cases hdone : c.chunkLeft - BitVec.ofNat 64 n = 0
  · obtain ⟨m, horder, hmove⟩ := makes_rangeLoop s true
      { r with cur := r.cur + c.chunk, remaining := r.remaining - c.chunk, out := r.out ++ bytesLE v.toNat n
               copy := none }
    refine ⟨m, fun hinv => horder ⟨guestOk_of_sequencerInv hinv, rfl, fun t ht => ?_⟩, fun x => (if_pos hdone).trans (hmove x)⟩
    obtain ⟨hbuf, hoff, hsegs, hgates, hroot, hbytes⟩ := table_of_copy hinv hrange hcopy ht
    have hc := chunkOk_of_copy hinv hrange hcopy
    have hchunkLe := hc.chunkLe
    have hleftLe := hc.leftLe
    have hremaining : (r.remaining - c.chunk).toNat = r.remaining.toNat - c.chunk.toNat :=
      BitVec.toNat_sub_of_le hchunkLe
    have hzero : (c.chunkLeft - BitVec.ofNat 64 n).toNat = 0 := by rw [hdone]; rfl
    refine ⟨hbuf, hoff, hsegs, hgates, hroot, ?_⟩
    simp only [List.length_append, length_bytesLE, hremaining]
    omega
  · refine makes_sampleAbort (t := { s with range := some (r.take c n v).1 }) (.inr (by simp [State.phase, hwalk]))
      (fun hinv => ?_) fun x => if_neg hdone
    have hc := chunkOk_of_copy hinv hrange hcopy
    have hleftLe := hc.leftLe
    have hnext := chunkOk_after hinv.config.maxM hc hn hdone (length_bytesLE v.toNat n)
    refine sequencerInv_congr (sequencerInv_copying (r := { r with out := r.out ++ bytesLE v.toNat n })
      (guestOk_of_sequencerInv hinv) (hinv.range r hrange).remaining hnext fun t ht => ?_) rfl hwalk rfl rfl
    obtain ⟨hbuf, hoff, hsegs, hgates, hroot, hbytes⟩ := table_of_copy hinv hrange hcopy ht
    refine ⟨hbuf, hoff, hsegs, hgates, hroot, ?_⟩
    simp only [List.length_append, length_bytesLE, hsub]
    omega

/-! ### The slots of a table -/

/-- The slot's low 8 bytes are all that an 8-byte kind looks at. -/
theorem decodeSeg_setWidth_lowHalf {k : SegKind} (hk : k.size = 8) (b : Word128) :
    decodeSeg k ((field b 0 64).setWidth 128) = decodeSeg k b := by
  have hlow : field ((field b 0 64).setWidth 128) 0 64 = field b 0 64 := by
    apply BitVec.eq_of_toNat_eq
    simp
  cases k with
  | null | data | code => simp only [decodeSeg, hlow]
  | tss | callgate => cases hk

/-- The two halves of a slot's 16 bytes. -/
theorem append_halves (b : Word128) : field b 64 64 ++ field b 0 64 = b := by
  apply BitVec.eq_of_toNat_eq
  have hlt := b.isLt
  rw [toNat_append_eq_add, field_toNat, field_toNat, bits_eq_div_mod, bits_eq_div_mod]
  omega

/-- One more descriptor inside the table keeps the cursor the sum of the sizes. -/
theorem cursorOk_appendSeg {t : TableFrame} {buf : List Byte} (h : CursorOk t buf) (hkind : t.kind = .gdt) {x : SegDesc}
    (hx : t.off + x.size ≤ t.bytes) : CursorOk (t.appendSeg x) buf where
  holds := h.holds
  length := h.length
  le := hx
  gdt _ := by
    obtain ⟨hsum, hgates⟩ := h.gdt hkind
    exact ⟨by simp [TableFrame.appendSeg, hsum], hgates⟩
  idt hidt := by
    have : t.kind = .idt := hidt
    simp [hkind] at this

/-- One more gate inside the table keeps the cursor 16 times their number. -/
theorem cursorOk_appendGate {t : TableFrame} {buf : List Byte} (h : CursorOk t buf) (hkind : t.kind = .idt) (g : GateDesc)
    (ht : t.off + 16 ≤ t.bytes) : CursorOk (t.appendGate g) buf where
  holds := h.holds
  length := h.length
  le := ht
  gdt hgdt := by
    have : t.kind = .gdt := hgdt
    simp [hkind] at this
  idt _ := by
    obtain ⟨hcount, hsegs⟩ := h.idt hkind
    exact ⟨by simp [TableFrame.appendGate, hcount, Nat.mul_add], hsegs⟩

/-! What one iteration of the GDT loop does with its slot (R570). -/

section VisitSlot

variable (s : State) {t : TableFrame} {buf : List Byte}

theorem visitSlot_of_unsupported (h : classify (field (slotValue buf t.off) 0 64) = none) :
    visitSlot s t buf = s.raise
      (.unsupportedDescriptor (field (field (slotValue buf t.off) 0 64) 40 4) (BitVec.ofNat 16 t.off)) := by
  simp only [visitSlot, h]

variable {k : SegKind} (h : classify (field (slotValue buf t.off) 0 64) = some k)
include h

theorem visitSlot_of_truncated (hleft : t.bytes - t.off < k.size) :
    visitSlot s t buf = s.raise (.truncatedDescriptor (BitVec.ofNat 16 t.off)) := by
  simp only [visitSlot, h, if_pos hleft]

theorem visitSlot_of_kind (hleft : ¬ t.bytes - t.off < k.size) :
    visitSlot s t buf = { s with table := some (t.appendSeg (decodeSeg k (slotValue buf t.off))) } := by
  simp only [visitSlot, h, if_neg hleft, TableFrame.appendSeg, size_decodeSeg]

end VisitSlot

theorem kindByC_data {c : Nat} (hlo : 16 ≤ c) (hhi : c < 24) : kindByC c = some .data := if_pos (by omega)

theorem kindByC_code {c : Nat} (h : 24 ≤ c) : kindByC c = some .code := (if_neg (by omega)).trans (if_pos (by omega))

section Slot

variable {s : State} {t : TableFrame} {buf : List Byte} (hwalk : s.walk = none) (hrange : s.range = none)
  (htable : s.table = some t) (hbuf : t.buf = some buf) (hkind : t.kind = .gdt) (hoff : t.off + 8 ≤ t.bytes)
include hwalk hrange htable hbuf hkind hoff

theorem segShort_of_table (k : SegKind) (d : Word) :
    segShort k d s = .next { s with table := some (t.appendSeg (decodeSeg k (d.setWidth 128))) } :=
  State.inSlot_of_table _ hwalk hrange htable hbuf hkind hoff

theorem segLong_of_table (k : SegKind) (d : Word) :
    segLong k d s = .next (
      if t.bytes - t.off < 16 then s.raise (.truncatedDescriptor (BitVec.ofNat 16 t.off))
      else { s with table := some (t.appendSeg (decodeSeg k (field (slotValue buf t.off) 64 64 ++ d))) }) :=
  State.inSlot_of_table _ hwalk hrange htable hbuf hkind hoff

theorem segUnsupported_of_table (d : Word) :
    segUnsupported d s = .next (s.raise (.unsupportedDescriptor (field d 40 4) (BitVec.ofNat 16 t.off))) :=
  State.inSlot_of_table _ hwalk hrange htable hbuf hkind hoff

theorem segShort_eq_visitSlot {k : SegKind} (hk : classify (field (slotValue buf t.off) 0 64) = some k)
    (hsize : k.size = 8) : segShort k (field (slotValue buf t.off) 0 64) s = .next (visitSlot s t buf) := by
  rw [segShort_of_table hwalk hrange htable hbuf hkind hoff, decodeSeg_setWidth_lowHalf hsize,
    visitSlot_of_kind s hk (by omega)]

theorem segLong_eq_visitSlot {k : SegKind} (hk : classify (field (slotValue buf t.off) 0 64) = some k)
    (hsize : k.size = 16) : segLong k (field (slotValue buf t.off) 0 64) s = .next (visitSlot s t buf) := by
  rw [segLong_of_table hwalk hrange htable hbuf hkind hoff, append_halves]
  split
  · rw [visitSlot_of_truncated s hk (by omega)]
  · rw [visitSlot_of_kind s hk (by omega)]

theorem segUnsupported_eq_visitSlot (hk : classify (field (slotValue buf t.off) 0 64) = none) :
    segUnsupported (field (slotValue buf t.off) 0 64) s = .next (visitSlot s t buf) := by
  rw [segUnsupported_of_table hwalk hrange htable hbuf hkind hoff, visitSlot_of_unsupported s hk]

/-- The row that a slot decodes to does what the loop's body does with the slot (30_encoding.md R323). -/
theorem exec_segmentRow :
    exec (segmentRow (field (slotValue buf t.off) 0 64)) s = .next (visitSlot s t buf) := by
  have hshort {k : SegKind} := segShort_eq_visitSlot (k := k) hwalk hrange htable hbuf hkind hoff
  have hlong {k : SegKind} := segLong_eq_visitSlot (k := k) hwalk hrange htable hbuf hkind hoff
  have hnone := segUnsupported_eq_visitSlot hwalk hrange htable hbuf hkind hoff
  generalize field (slotValue buf t.off) 0 64 = d at *
  have hclass : classify d = kindByC (field d 40 5).toNat := by
    rw [classify_eq_kindByC, toNat_field_eq_slice d (hi := 44) (by decide) (by decide)]
  have hlt := (field d 40 5).isLt
  have hcode := bit_code_iff d
  unfold segmentRow
  split
  case h_17 =>
    have hs : 16 ≤ (field d 40 5).toNat := by simp only [imp_false] at *; omega
    split
    · next hbit => exact hshort (k := .code) (by rw [hclass, kindByC_code (by rw [hcode] at hbit; omega)]) rfl
    · next hbit => exact hshort (k := .data) (by rw [hclass, kindByC_data hs (by rw [hcode] at hbit; omega)]) rfl
  case h_1 h => exact hshort (k := .null) (by rw [hclass, h]; rfl) rfl
  case h_16 h => exact hlong (k := .callgate) (by rw [hclass, h]; rfl) rfl
  case h_10 h | h_12 h | h_14 h => exact hlong (k := .tss) (by rw [hclass, h]; rfl) rfl
  all_goals next h => exact hnone (by rw [hclass, h]; rfl)

omit hbuf in
/-- A slot that is not the last of its table moves the cursor on, or ends the command. -/
theorem makes_visitSlot : Makes s false (SequencerInv s) (visitSlot · t buf) := by
  cases hclass : classify (field (slotValue buf t.off) 0 64) with
  | none =>
    obtain ⟨m, horder, hmove⟩ := makes_raise s false (SequencerInv s)
      (.unsupportedDescriptor (field (field (slotValue buf t.off) 0 64) 40 4) (BitVec.ofNat 16 t.off))
    exact ⟨m, horder, fun x => (visitSlot_of_unsupported (s.within x) hclass).trans (hmove x)⟩
  | some k =>
    by_cases hleft : t.bytes - t.off < k.size
    · obtain ⟨m, horder, hmove⟩ := makes_raise s false (SequencerInv s) (.truncatedDescriptor (BitVec.ofNat 16 t.off))
      exact ⟨m, horder, fun x => (visitSlot_of_truncated (s.within x) hclass hleft).trans (hmove x)⟩
    · refine makes_goesOn_first (t := { s with table := some (t.appendSeg (decodeSeg k (slotValue buf t.off))) })
        (fun hinv => ?_) fun x => visitSlot_of_kind (s.within x) hclass hleft
      obtain ⟨buf', hcursor⟩ := exists_cursorOk hinv hrange htable
      refine sequencerInv_congr (sequencerInv_decoding (t := t.appendSeg (decodeSeg k (slotValue buf t.off)))
        (guestOk_of_sequencerInv hinv) (cursorOk_appendSeg hcursor hkind ?_)) rfl hwalk hrange rfl
      rw [size_decodeSeg]
      omega

end Slot

/-! ### Commands -/

/-- PTE.DECODE of a legal level and index ends with the entry (R428). -/
theorem exec_pteDecode_of_legal {s : State} (h : s.phase = .idle) {level : BitVec 8} {L : Level}
    (hL : levelOfByte level = some L) {index : BitVec 16} (hindex : index.toNat < 512) (tableBase raw : Word) :
    exec (.pteDecode level tableBase index raw) s =
      .next (s.complete (.entry (decodeEntry s.m L tableBase (index.setWidth 9) raw))) := by
  change execPteDecode level tableBase index raw s = _
  rw [execPteDecode, State.startCommand_of_idle h]
  simp only [hL]
  exact congrArg _ (if_neg hindex.not_ge)

/-- PTE.DECODE of another level or index is an illegal operand (30_encoding.md R303). -/
theorem exec_pteDecode_of_illegal {s : State} (h : s.phase = .idle) {level : BitVec 8} {index : BitVec 16}
    (hillegal : levelOfByte level = none ∨ 512 ≤ index.toNat) (tableBase raw : Word) :
    exec (.pteDecode level tableBase index raw) s = .next (s.raise (.illegalOperand 0x03)) := by
  change execPteDecode level tableBase index raw s = _
  rw [execPteDecode, State.startCommand_of_idle h]
  cases hL : levelOfByte level with
  | none => rfl
  | some L => exact congrArg _ (if_pos (hillegal.resolve_left (by simp [hL])))

/-- READ in an idle block is the head of its loop over pages (R500). -/
theorem exec_read_of_idle {s : State} (h : s.phase = .idle) (root va length : Word) :
    exec (.read root va length) s = .next (s.beginRange root va length) :=
  State.startCommand_of_idle h fun s => s.beginRange root va length

theorem exec_gdt_of_idle {s : State} (h : s.phase = .idle) (root base : Word) (limit : BitVec 16) :
    exec (.gdt root base limit) s = .next (s.beginTable .gdt root base limit) :=
  State.startCommand_of_idle h fun s => s.beginTable .gdt root base limit

theorem exec_idt_of_idle {s : State} (h : s.phase = .idle) (root base : Word) (limit : BitVec 16) :
    exec (.idt root base limit) s = .next (s.beginTable .idt root base limit) :=
  State.startCommand_of_idle h fun s => s.beginTable .idt root base limit

section SegCreate

/-! SEG.CREATE makes its checks in order (R560). -/

variable {s : State} (h : s.phase = .idle) {n : BitVec 8} {b : Word128}
include h

theorem exec_segCreate_of_large (hlarge : 16 < n.toNat) :
    exec (.segCreate n b) s = .next (s.raise (.illegalOperand 0x06)) := by
  simp only [exec, execSegCreate, State.startCommand_of_idle h, if_pos hlarge]

theorem exec_segCreate_of_small (hsmall : n.toNat < 8) :
    exec (.segCreate n b) s = .next (s.raise (.insufficientBytes n 8)) := by
  have hlarge : ¬ 16 < n.toNat := by omega
  simp only [exec, execSegCreate, State.startCommand_of_idle h, if_neg hlarge, if_pos hsmall]

variable (hmin : 8 ≤ n.toNat) (hmax : n.toNat ≤ 16)
include hmin hmax

theorem exec_segCreate_of_unsupported (hkind : classify (field b 0 64) = none) :
    exec (.segCreate n b) s = .next (s.raise (.unsupportedDescriptor (field (field b 0 64) 40 4) 0)) := by
  simp only [exec, execSegCreate, State.startCommand_of_idle h, if_neg hmin.not_gt, if_neg hmax.not_gt, hkind]

variable {k : SegKind} (hkind : classify (field b 0 64) = some k)
include hkind

theorem exec_segCreate_of_insufficient (hsize : n.toNat < k.size) :
    exec (.segCreate n b) s = .next (s.raise (.insufficientBytes n (BitVec.ofNat 8 k.size))) := by
  simp only [exec, execSegCreate, State.startCommand_of_idle h, if_neg hmin.not_gt, if_neg hmax.not_gt, hkind, if_pos hsize]

theorem exec_segCreate_of_kind (hsize : k.size ≤ n.toNat) :
    exec (.segCreate n b) s = .next (s.complete (.segment (decodeSeg k b))) := by
  simp only [exec, execSegCreate, State.startCommand_of_idle h, if_neg hmin.not_gt, if_neg hmax.not_gt, hkind,
    if_neg hsize.not_gt]

end SegCreate

/-! ### The moves of a step that reads nothing -/

theorem Makes.exists_move {s : State} {ok : Prop} {F : State → State} {run : State → Host.Outcome State Fault Refusal}
    (h : Makes s false ok F) (hrun : ∀ x, run (s.within x) = .next (F (s.within x))) :
    ∃ m : Move, (ok → m.InOrder s.m) ∧ ∀ x, run (s.within x) = .next (m.apply (s.within x)) := by
  obtain ⟨m, horder, hmove⟩ := h
  exact ⟨m, horder, fun x => by rw [hrun, hmove, Move.run_false]⟩

/-- A move does not depend on the TABLE frame it replaces. -/
theorem Move.run_false_setTable (m : Move) (s : State) (t : Option TableFrame) :
    m.run false { s with table := t } = m.run false s := by
  rw [Move.run_false, Move.run_false]
  cases m <;> rfl

section Command

variable {s : State} (hidle : s.phase = .idle)
include hidle

theorem makes_resolve (root va : Word) : Makes s false (SequencerInv s) (·.beginWalk root va) := by
  obtain ⟨hwalk, hrange, htable⟩ := s.phase_idle_iff.mp hidle
  by_cases haccepts : s.acceptsVa va = true
  · exact makes_goesOn_first (t := { s with walk := some (firstWalkFrame root va) })
      (fun hinv => sequencerInv_resolving (guestOk_of_sequencerInv hinv) hrange htable (walkFrameOk_first haccepts))
      fun x => State.beginWalk_of_acceptsVa (s := s.within x) haccepts root
  · obtain ⟨m, horder, hmove⟩ := makes_raise s false (SequencerInv s) (.addressWidthViolation va)
    exact ⟨m, horder, fun x => (State.beginWalk_of_not_acceptsVa (s := s.within x) haccepts root).trans (hmove x)⟩

theorem makes_read (root va length : Word) : Makes s false (SequencerInv s) (·.beginRange root va length) := by
  obtain ⟨-, -, htable⟩ := s.phase_idle_iff.mp hidle
  exact (makes_rangeLoop s false _).mono fun hinv => ⟨guestOk_of_sequencerInv hinv, rfl, by simp [htable]⟩

omit hidle in
theorem makes_beginTable (kind : TableKind) (root base : Word) (limit : BitVec 16) :
    Makes s false (SequencerInv s) (·.beginTable kind root base limit) := by
  obtain ⟨m, horder, hmove⟩ := makes_rangeLoop { s with table := some (firstTableFrame kind root base limit) } false
    { root := root, cur := base, remaining := BitVec.ofNat 64 (limit.toNat + 1), out := [], copy := none }
  refine ⟨m, fun hinv => horder ⟨GuestOk.congr (guestOk_of_sequencerInv hinv) rfl, rfl, ?_⟩, fun x => ?_⟩
  · rintro _ ⟨rfl⟩
    exact ⟨rfl, rfl, rfl, rfl, rfl, by simp [TableFrame.bytes, firstTableFrame]; omega⟩
  · exact (hmove x).trans (Move.run_false_setTable m (s.within x) _)

/-- The commands of CMD: in an idle block most end at once, and four start with their first read to come. -/
theorem command_cases {i : Instr} (hkind : i.kind = .command) :
    (∃ r, ResponseOk s.m r ∧ ∀ x, exec i (s.within x) = .next ((s.within x).endCommand r)) ∨
    (∃ root va, i = .resolve root va) ∨ (∃ root va length, i = .read root va length) ∨
    ∃ root base limit, i = .gdt root base limit ∨ i = .idt root base limit := by
  have hidle' (x : Record) : (s.within x).phase = .idle := hidle
  cases i with
  | bits value start nbits => exact .inl ⟨_, by rfl, fun x => exec_bits_of_idle (hidle' x) value start nbits⟩
  | split va => exact .inl ⟨_, by rfl, fun x => exec_split_of_idle (hidle' x) va⟩
  | gateDecode b => exact .inl ⟨_, by rfl, fun x => exec_gateDecode_of_idle (hidle' x) b⟩
  | illegalCommand opcode => exact .inl ⟨_, by rfl, fun x => exec_illegalCommand_of_idle (hidle' x) opcode⟩
  | pteDecode level tableBase index raw =>
    by_cases hillegal : levelOfByte level = none ∨ 512 ≤ index.toNat
    · exact .inl ⟨_, by rfl, fun x => exec_pteDecode_of_illegal (hidle' x) hillegal tableBase raw⟩
    · obtain ⟨hsome, hindex⟩ := not_or.mp hillegal
      obtain ⟨L, hL⟩ := Option.ne_none_iff_exists'.mp hsome
      exact .inl ⟨{ status := 0, payload := .entry (decodeEntry s.m L tableBase (index.setWidth 9) raw) }, rfl,
        fun x => exec_pteDecode_of_legal (hidle' x) hL (not_le.mp hindex) tableBase raw⟩
  | segCreate n b =>
    by_cases hlarge : 16 < n.toNat
    · exact .inl ⟨_, by rfl, fun x => exec_segCreate_of_large (hidle' x) hlarge⟩
    by_cases hsmall : n.toNat < 8
    · exact .inl ⟨_, by rfl, fun x => exec_segCreate_of_small (hidle' x) hsmall⟩
    rw [not_lt] at hlarge hsmall
    cases hclass : classify (field b 0 64) with
    | none => exact .inl ⟨_, by rfl, fun x => exec_segCreate_of_unsupported (hidle' x) hsmall hlarge hclass⟩
    | some k =>
      by_cases hsize : k.size ≤ n.toNat
      · exact .inl ⟨_, by rfl, fun x => exec_segCreate_of_kind (hidle' x) hsmall hlarge hclass hsize⟩
      · exact .inl ⟨_, by rfl, fun x => exec_segCreate_of_insufficient (hidle' x) hsmall hlarge hclass (not_le.mp hsize)⟩
  | resolve root va => exact .inr (.inl ⟨root, va, rfl⟩)
  | read root va length => exact .inr (.inr (.inl ⟨root, va, length, rfl⟩))
  | gdt root base limit => exact .inr (.inr (.inr ⟨root, base, limit, .inl rfl⟩))
  | idt root base limit => exact .inr (.inr (.inr ⟨root, base, limit, .inr rfl⟩))
  | _ => cases hkind

/-- Every command of CMD, in an idle block, makes one move, up to its first read. -/
theorem exists_move_of_command {i : Instr} (hkind : i.kind = .command) :
    ∃ m : Move, (SequencerInv s → m.InOrder s.m) ∧ ∀ x, exec i (s.within x) = .next (m.apply (s.within x)) := by
  have hidle' (x : Record) : (s.within x).phase = .idle := hidle
  obtain ⟨r, hr, hexec⟩ | ⟨root, va, rfl⟩ | ⟨root, va, length, rfl⟩ | ⟨root, base, limit, rfl | rfl⟩ :=
    command_cases hidle hkind
  · exact ⟨.ends r, fun _ => hr, hexec⟩
  · exact (makes_resolve hidle root va).exists_move fun x => exec_resolve_of_idle (hidle' x) root va
  · exact (makes_read hidle root va length).exists_move fun x => exec_read_of_idle (hidle' x) root va length
  · exact (makes_beginTable .gdt root base limit).exists_move fun x => exec_gdt_of_idle (hidle' x) root base limit
  · exact (makes_beginTable .idt root base limit).exists_move fun x => exec_idt_of_idle (hidle' x) root base limit

end Command

/-! ### The steps -/

section Table

variable {s : State} {t : TableFrame} {buf : List Byte} (hwalk : s.walk = none) (hrange : s.range = none)
  (htable : s.table = some t) (hbuf : t.buf = some buf) (hkind : t.kind = .gdt)
include hwalk hrange htable hbuf hkind

/-- With less than 8 bytes left the command ends with its descriptors (R570). -/
theorem step_gdt_end (h : t.bytes - t.off < 8) : step s = .next (s.complete (.segments t.segs)) := by
  have hfetch : fetch s = .done (s.complete (.segments t.segs)) := by
    simp [fetch, hwalk, hrange, htable, tableStep, hbuf, hkind, h]
  rw [step, hfetch]

theorem fetch_gdt_slot (h : t.off + 8 ≤ t.bytes) :
    fetch s = .run (segmentRow (field (slotValue buf t.off) 0 64)) s := by
  have hleft : ¬ t.bytes - t.off < 8 := by omega
  simp only [fetch, hwalk, hrange, htable, tableStep, hbuf, hkind, if_neg hleft]

/-- At a slot the loop's body runs (R570). -/
theorem step_gdt_slot (h : t.off + 8 ≤ t.bytes) : step s = .next (visitSlot s t buf) := by
  rw [step, fetch_gdt_slot hwalk hrange htable hbuf hkind h]
  exact exec_segmentRow hwalk hrange htable hbuf hkind h

end Table

theorem step_table_reading {s : State} {t : TableFrame} (hwalk : s.walk = none) (hrange : s.range = none)
    (htable : s.table = some t) (hbuf : t.buf = none) :
    step s = .next (s.beginRange t.root t.base (BitVec.ofNat 64 t.bytes)) := by
  simp only [step, fetch, hwalk, hrange, htable, tableStep, hbuf]

/-- A step of a table command that runs no READ. -/
theorem exists_move_of_table {s : State} {t : TableFrame} (hwalk : s.walk = none) (hrange : s.range = none)
    (htable : s.table = some t) :
    ∃ m : Move, (SequencerInv s → m.InOrder s.m) ∧ ∀ x, step (s.within x) = .next (m.apply (s.within x)) := by
  have hcursor (hinv : SequencerInv s) := exists_cursorOk hinv hrange htable
  cases hbuf : t.buf with
  | none =>
    refine ((makes_rangeLoop s false _).mono fun hinv => ?_).exists_move
      fun x => step_table_reading (s := s.within x) hwalk hrange htable hbuf
    obtain ⟨buf, hholds⟩ := hcursor hinv
    exact absurd (hbuf.symm.trans hholds.holds) (by simp)
  | some buf =>
    cases hkind : t.kind with
    | gdt =>
      by_cases hleft : t.off + 8 ≤ t.bytes
      · exact (makes_visitSlot hwalk hrange htable hkind hleft).exists_move
          fun x => step_gdt_slot (s := s.within x) hwalk hrange htable hbuf hkind hleft
      · exact ⟨.ends _, fun _ => by rfl,
          fun x => step_gdt_end (s := s.within x) hwalk hrange htable hbuf hkind (by omega)⟩
    | idt =>
      by_cases hleft : t.off + 16 ≤ t.bytes
      · refine ⟨.goesOn { s with table := some (t.appendGate (decodeGate (slotValue buf t.off))) }, fun hinv => ?_,
          fun x => step_idt_slot (s := s.within x) hwalk hrange htable hbuf hkind hleft⟩
        obtain ⟨buf', hholds⟩ := hcursor hinv
        exact sequencerInv_congr (sequencerInv_decoding (guestOk_of_sequencerInv hinv)
          (cursorOk_appendGate hholds hkind _ hleft)) rfl hwalk hrange rfl
      · exact ⟨.ends _, fun _ => by rfl,
          fun x => step_idt_end (s := s.within x) hwalk hrange htable hbuf hkind (by omega)⟩

/-- The caller's move in an idle block with an empty CMD. -/
theorem exists_move_of_caller {s : State} (hidle : s.phase = .idle) (hcmd : s.cmd = none) :
    ∃ m : Move, (SequencerInv s → m.InOrder s.m) ∧ ∀ x, step (s.within x) = .next (m.apply (s.within x)) := by
  obtain ⟨hwalk, hrange, htable⟩ := s.phase_idle_iff.mp hidle
  have hstep (x : Record) : step (s.within x) = .next (s.within x).callerStep := by
    simp only [step, fetch, State.within, hwalk, hrange, htable, hcmd]
  cases hcommands : s.commands with
  | nil =>
    refine ⟨.goesOn s, id, fun x => (hstep x).trans (congrArg _ ?_)⟩
    rw [State.callerStep, show (s.within x).commands = [] from hcommands]
    rfl
  | cons w rest =>
    refine ⟨.goesOn { s with cmd := some w, commands := rest }, fun hinv => sequencerInv_congr hinv rfl rfl rfl rfl,
      fun x => (hstep x).trans (congrArg _ ?_)⟩
    rw [State.callerStep, show (s.within x).commands = w :: rest from hcommands]
    rfl

theorem fetch_of_range {s : State} {r : RangeFrame} (hwalk : s.walk = none) (hrange : s.range = some r) :
    fetch s = rangeStep s r := by
  simp only [fetch, hwalk, hrange]

/-- A READ that has no byte of a chunk to read next: no state in order is one. -/
theorem exists_move_of_range {s : State} {r : RangeFrame} (hwalk : s.walk = none) (hrange : s.range = some r)
    (h : ∀ c, r.copy = some c → c.chunkLeft = 0) :
    ∃ m : Move, (SequencerInv s → m.InOrder s.m) ∧ ∀ x, step (s.within x) = .next (m.apply (s.within x)) := by
  cases hcopy : r.copy with
  | none =>
    refine ((makes_rangeLoop s false r).mono fun hinv => ?_).exists_move fun x => ?_
    · obtain ⟨f, hf, -⟩ := (hinv.range r hrange).walking hcopy
      simp [hwalk] at hf
    · rw [step, fetch_of_range (s := s.within x) hwalk hrange, rangeStep, hcopy]
  | some c =>
    refine ((makes_rangeLoop s false (r.endChunk c)).mono fun hinv => ?_).exists_move fun x => ?_
    · exact absurd (h c hcopy) (chunkOk_of_copy hinv hrange hcopy).left
    · rw [step, fetch_of_range (s := s.within x) hwalk hrange, rangeStep, hcopy]
      simp only [if_pos (h c hcopy)]

/-- A step that issues no read makes one move, whatever its record. -/
theorem step_quiet {s : State} (h : nextRead s = none) :
    ∃ m : Move, (SequencerInv s → m.InOrder s.m) ∧ ∀ x, step (s.within x) = .next (m.apply (s.within x)) := by
  cases hwalk : s.walk with
  | some f => simp [nextRead, hwalk] at h
  | none =>
    cases hrange : s.range with
    | some r =>
      refine exists_move_of_range hwalk hrange fun c hc => ?_
      by_contra hleft
      exact hleft (by simpa [nextRead, hwalk, hrange, hc] using h)
    | none =>
      cases htable : s.table with
      | some t => exact exists_move_of_table hwalk hrange htable
      | none =>
        have hidle : s.phase = .idle := s.phase_idle_iff.mpr ⟨hwalk, hrange, htable⟩
        cases hcmd : s.cmd with
        | none => exact exists_move_of_caller hidle hcmd
        | some w =>
          obtain ⟨m, horder, hmove⟩ := exists_move_of_command hidle (kind_decodeCommand w)
          exact ⟨m, horder, fun x => (step_of_command (s := s.within x) hidle hcmd).trans (hmove x)⟩

/-! A step that issues a read, by the reader's answer. -/

section Read

variable {s : State} {a : Word} {n : ReadSize} {k : Word → State → Fetched} {v : Word} {rest : List ReaderAnswer}

theorem memRead_of_value (h : readerAnswer s a n = (.value v, rest)) :
    memRead s a n k = k v (afterRead s a n (some v) rest) := by
  rw [memRead, h]
  rfl

theorem memRead_of_fail (h : readerAnswer s a n = (.fail, rest)) :
    memRead s a n k = .done ((afterRead s a n none rest).raise (.hostReadFailure a)) := by
  rw [memRead, h]
  rfl

theorem memRead_of_never (h : readerAnswer s a n = (.never, rest)) : memRead s a n k = .done s := by
  rw [memRead, h]

theorem fetch_of_walk {f : WalkFrame} (hwalk : s.walk = some f) : fetch s = walkStep s f := by
  simp only [fetch, hwalk]

theorem fetch_of_copy {r : RangeFrame} {c : CopyState} (hwalk : s.walk = none) (hrange : s.range = some r)
    (hcopy : r.copy = some c) (hleft : c.chunkLeft ≠ 0) :
    fetch s = memRead s c.pa (dataReadSize c.pa c.chunkLeft) fun v s' =>
      .done (s'.afterDataRead r c (dataReadSize c.pa c.chunkLeft).bytes v) := by
  rw [fetch_of_range hwalk hrange, rangeStep, hcopy]
  simp only [if_neg hleft]

/-- The two reads of the block: a walk's entry, and the data read of a chunk. -/
theorem nextRead_cases (h : nextRead s = some (a, n)) :
    (∃ f, s.walk = some f ∧ a = entryAddress f.tableBase (levelIndex f.split f.level) ∧ n = .b8) ∨
    (∃ r c, s.walk = none ∧ s.range = some r ∧ r.copy = some c ∧ c.chunkLeft ≠ 0 ∧ a = c.pa ∧
      n = dataReadSize c.pa c.chunkLeft) := by
  unfold nextRead at h
  split at h
  · next f hwalk =>
    cases h
    exact .inl ⟨f, hwalk, rfl, rfl⟩
  · next r hwalk hrange =>
    split at h
    · next c hcopy =>
      split at h
      · cases h
      · next hleft =>
        cases h
        exact .inr ⟨r, c, hwalk, hrange, hcopy, hleft, rfl, rfl⟩
    · cases h
  · cases h

/-- Where a step issues a read, it is that read and what follows its answer. -/
theorem fetch_of_nextRead (h : nextRead s = some (a, n)) : ∃ k, fetch s = memRead s a n k := by
  obtain ⟨f, hwalk, rfl, rfl⟩ | ⟨r, c, hwalk, hrange, hcopy, hleft, rfl, rfl⟩ := nextRead_cases h
  · exact ⟨_, fetch_of_walk hwalk⟩
  · exact ⟨_, fetch_of_copy hwalk hrange hcopy hleft⟩

theorem step_failed (h : nextRead s = some (a, n)) (hanswer : readerAnswer s a n = (.fail, rest)) :
    step s = .next ((afterRead s a n none rest).raise (.hostReadFailure a)) := by
  obtain ⟨k, hfetch⟩ := fetch_of_nextRead h
  rw [step, hfetch, memRead_of_fail hanswer]

theorem step_unanswered (h : nextRead s = some (a, n)) (hanswer : readerAnswer s a n = (.never, rest)) :
    step s = .next s := by
  obtain ⟨k, hfetch⟩ := fetch_of_nextRead h
  rw [step, hfetch, memRead_of_never hanswer]

theorem step_walk_answered {f : WalkFrame} (hwalk : s.walk = some f)
    (hanswer : readerAnswer s (entryAddress f.tableBase (levelIndex f.split f.level)) .b8 = (.value v, rest)) :
    step s = .next (visitEntry
      (afterRead s (entryAddress f.tableBase (levelIndex f.split f.level)) .b8 (some v) rest) f v) := by
  rw [step, fetch_of_walk hwalk, walkStep, memRead_of_value hanswer]
  exact exec_entryRow (by exact hwalk) v

theorem step_copy_answered {r : RangeFrame} {c : CopyState} (hwalk : s.walk = none) (hrange : s.range = some r)
    (hcopy : r.copy = some c) (hleft : c.chunkLeft ≠ 0)
    (hanswer : readerAnswer s c.pa (dataReadSize c.pa c.chunkLeft) = (.value v, rest)) :
    step s = .next ((afterRead s c.pa (dataReadSize c.pa c.chunkLeft) (some v) rest).afterDataRead r c
      (dataReadSize c.pa c.chunkLeft).bytes v) := by
  rw [step, fetch_of_copy hwalk hrange hcopy hleft, memRead_of_value hanswer]

/-- A step whose read is answered with a value makes one move from the state after the read, whatever its record, and
samples the abort input where another read follows. -/
theorem step_answered (h : nextRead s = some (a, n)) (hanswer : readerAnswer s a n = (.value v, rest)) :
    ∃ m : Move, (SequencerInv s → m.InOrder s.m) ∧
      ∀ x, step (s.within x) = .next (m.run true (afterRead (s.within x) a n (some v) rest)) := by
  have hinv (hinv : SequencerInv s) : SequencerInv { s with answers := rest } := sequencerInv_congr hinv rfl rfl rfl rfl
  obtain ⟨f, hwalk, rfl, rfl⟩ | ⟨r, c, hwalk, hrange, hcopy, hleft, rfl, rfl⟩ := nextRead_cases h
  · obtain ⟨m, horder, hmove⟩ := makes_visitEntry (s := { s with answers := rest }) hwalk v
    exact ⟨m, fun h' => horder (hinv h'), fun x =>
      (step_walk_answered (s := s.within x) hwalk hanswer).trans (congrArg _ (hmove { x with readLog := x.readLog ++ [_] }))⟩
  · obtain ⟨m, horder, hmove⟩ := makes_afterDataRead (s := { s with answers := rest }) hwalk hrange hcopy
      (bytes_dataReadSize_le hleft) v
    exact ⟨m, fun h' => horder (hinv h'), fun x =>
      (step_copy_answered (s := s.within x) hwalk hrange hcopy hleft hanswer).trans
        (congrArg _ (hmove { x with readLog := x.readLog ++ [_] }))⟩

end Read

/-- What one step can do: a move without a read; one after an answered read; the end of the command after a failed one;
nothing while the reader does not answer. -/
theorem step_shape (s : State) :
    (nextRead s = none ∧ ∃ m : Move, (SequencerInv s → m.InOrder s.m) ∧
      ∀ x, step (s.within x) = .next (m.apply (s.within x))) ∨
    (∃ a n v rest, nextRead s = some (a, n) ∧ readerAnswer s a n = (.value v, rest) ∧
      ∃ m : Move, (SequencerInv s → m.InOrder s.m) ∧
        ∀ x, step (s.within x) = .next (m.run true (afterRead (s.within x) a n (some v) rest))) ∨
    (∃ a n rest, nextRead s = some (a, n) ∧ readerAnswer s a n = (.fail, rest) ∧
      ∀ x, step (s.within x) = .next ((afterRead (s.within x) a n none rest).raise (.hostReadFailure a))) ∨
    (∃ a n rest, nextRead s = some (a, n) ∧ readerAnswer s a n = (.never, rest) ∧
      ∀ x, step (s.within x) = .next (s.within x)) := by
  cases h : nextRead s with
  | none => exact .inl ⟨rfl, step_quiet h⟩
  | some read =>
    obtain ⟨a, n⟩ := read
    rcases hanswer : readerAnswer s a n with ⟨v | _ | _, rest⟩
    · exact .inr (.inl ⟨a, n, v, rest, rfl, hanswer, step_answered h hanswer⟩)
    · exact .inr (.inr (.inl ⟨a, n, rest, rfl, hanswer, fun x => step_failed (s := s.within x) h hanswer⟩))
    · exact .inr (.inr (.inr ⟨a, n, rest, rfl, hanswer, fun x => step_unanswered (s := s.within x) h hanswer⟩))

end Sys2Proof.Machine

/-!
The rules of the whole machine that follow from what a step can do (`step_shape`): the two invariants, failed and unanswered
reads, the read log, the abort input, outcomes, and what a step does not depend on.
-/

namespace Sys2Proof.Machine

open Sys2Proof.Safety

/-! ### What a move leaves -/

/-- No command runs and none waits. -/
def State.Ended (t : State) : Prop :=
  t.phase = .idle ∧ t.walk = none ∧ t.range = none ∧ t.table = none ∧ t.cmd = none

theorem State.endCommand_ended (s : State) (r : Response) : (s.endCommand r).Ended := ⟨rfl, rfl, rfl, rfl, rfl⟩

section Move

variable (m : Move) (s : State)

@[simp] theorem Move.apply_readLog : (m.apply s).readLog = s.readLog := by
  cases m <;> rfl

/-- RSP is written where the command ends, and nowhere else. -/
theorem Move.apply_rsp : (m.apply s).rsp = s.rsp ∨ (m.apply s).Ended := by
  cases m with
  | ends r => exact .inr (s.endCommand_ended r)
  | goesOn t => exact .inl rfl

theorem State.sampleAbort_rsp : s.sampleAbort.rsp = s.rsp ∨
    s.sampleAbort.Ended ∧ s.sampleAbort.rsp = some (failed 7 .aborted) := by
  obtain ⟨-, h⟩ | ⟨rest, -, h⟩ | ⟨rest, -, h⟩ := s.sampleAbort_cases <;> rw [h]
  · exact .inl rfl
  · exact .inl rfl
  · exact .inr ⟨State.endCommand_ended _ _, rfl⟩

@[simp] theorem State.sampleAbort_readLog : s.sampleAbort.readLog = s.readLog :=
  congrArg Surroundings.readLog s.sampleAbort_surroundings

variable (afterRead : Bool)

@[simp] theorem Move.run_readLog : (m.run afterRead s).readLog = s.readLog := by
  unfold Move.run
  split
  · rw [State.sampleAbort_readLog, Move.apply_readLog]
  · exact m.apply_readLog s

theorem Move.run_rsp : (m.run afterRead s).rsp = s.rsp ∨ (m.run afterRead s).Ended := by
  unfold Move.run
  split
  · next hread =>
    obtain happly | hended := m.apply_rsp s
    · rw [← happly]
      exact (State.sampleAbort_rsp _).imp_right And.left
    · exact absurd hread.2 (State.not_readsNext_of_idle hended.1)
  · exact m.apply_rsp s

/-- The response that a move in order writes is one. -/
theorem responseOk_of_run {M : Nat} {m : Move} (hm : m.InOrder M) {r : Response}
    (h : (m.run afterRead s).rsp = some r) : s.rsp = some r ∨ ResponseOk M r := by
  cases m with
  | ends r' =>
    rw [Move.run_ends] at h
    exact .inr (Option.some.inj h ▸ hm)
  | goesOn t =>
    unfold Move.run at h
    split at h
    · obtain hrsp | ⟨-, hrsp⟩ := ((Move.goesOn t).apply s).sampleAbort_rsp
      · exact .inl (hrsp.symm.trans h)
      · rw [hrsp] at h
        exact .inr (Option.some.inj h ▸ rfl)
    · exact .inl h

end Move

/-- What a step that answers `t` has done. -/
theorem step_inversion {s t : State} (h : step s = .next t) :
    (nextRead s = none ∧ ∃ m : Move, (SequencerInv s → m.InOrder s.m) ∧ t = m.run false s) ∨
    (∃ a n v rest, nextRead s = some (a, n) ∧ readerAnswer s a n = (.value v, rest) ∧
      ∃ m : Move, (SequencerInv s → m.InOrder s.m) ∧ t = m.run true (afterRead s a n (some v) rest)) ∨
    (∃ a n rest, nextRead s = some (a, n) ∧ readerAnswer s a n = (.fail, rest) ∧
      t = (afterRead s a n none rest).raise (.hostReadFailure a)) ∨
    t = s := by
  obtain ⟨hread, m, horder, hstep⟩ | ⟨a, n, v, rest, hread, hanswer, m, horder, hstep⟩ |
    ⟨a, n, rest, hread, hanswer, hstep⟩ | ⟨a, n, rest, -, -, hstep⟩ := step_shape s
  all_goals
    have ht := h.symm.trans (hstep s.record)
    injection ht with ht
  · exact .inl ⟨hread, m, horder, ht.trans (Move.run_false _ _).symm⟩
  · exact .inr (.inl ⟨a, n, v, rest, hread, hanswer, m, horder, ht⟩)
  · exact .inr (.inr (.inl ⟨a, n, rest, hread, hanswer, ht⟩))
  · exact .inr (.inr (.inr ht))

/-! ### The invariants -/

theorem step_sequencerInv {s t : State} (hinv : SequencerInv s) (h : step s = .next t) : SequencerInv t := by
  have hs := guestOk_of_sequencerInv hinv
  obtain ⟨-, m, horder, rfl⟩ | ⟨a, n, v, rest, -, -, m, horder, rfl⟩ | ⟨a, n, rest, -, -, rfl⟩ | rfl := step_inversion h
  · exact sequencerInv_run hs (horder hinv) false
  · exact sequencerInv_run (s := afterRead s a n (some v) rest) (GuestOk.congr hs rfl) (horder hinv) true
  · refine GuestOk.sequencerInv_of_idle ?_ rfl
    exact GuestOk.congr hs rfl
  · exact hinv

theorem step_responseInv {s t : State} (hinv : SequencerInv s) (hrsp : ResponseInv s) (h : step s = .next t) :
    ResponseInv t := by
  have hm : t.m = s.m := State.m_eq_of_guest_eq (step_guest h)
  intro r hr
  rw [hm]
  obtain ⟨-, m, horder, rfl⟩ | ⟨a, n, v, rest, -, -, m, horder, rfl⟩ | ⟨a, n, rest, -, -, rfl⟩ | rfl := step_inversion h
  · exact (responseOk_of_run _ _ (horder hinv) hr).elim (hrsp r) id
  · exact (responseOk_of_run _ _ (horder hinv) hr).elim (hrsp r) id
  · exact Option.some.inj hr ▸ rfl
  · exact hrsp r hr

theorem configLegal_reset : ConfigLegal State.reset := ⟨rfl, rfl, by decide, by decide⟩

/-! ### Reads -/

/-- The size of a read of the block (20_memory.md R206). -/
theorem size_of_nextRead {s : State} {a : Word} {n : ReadSize} (h : nextRead s = some (a, n)) : n = .b1 ∨ n = .b8 := by
  obtain ⟨f, -, -, rfl⟩ | ⟨r, c, -, -, -, -, -, rfl⟩ := nextRead_cases h
  · exact .inr rfl
  · unfold dataReadSize
    split
    · exact .inr rfl
    · exact .inl rfl

theorem toNat_lt_of_imageAnswer {m : Memory} {inaccessible : List Nat} {a : Word} {n : ReadSize} {v : Word}
    (h : imageAnswer m inaccessible a n = .value v) : v.toNat < 2 ^ (8 * n.bytes) := by
  unfold imageAnswer at h
  split at h
  · cases h
  · injection h with hv
    rw [← hv, BitVec.toNat_ofNat]
    exact (Nat.mod_le _ _).trans_lt (by simpa using le_lt (m.bytes a n.bytes))

/-- A value that the reader gives fits the read (20_memory.md R200). -/
theorem toNat_lt_of_readerAnswer {s : State} {a : Word} {n : ReadSize} {v : Word} {rest : List ReaderAnswer}
    (h : readerAnswer s a n = (.value v, rest)) : v.toNat < 2 ^ (8 * n.bytes) := by
  obtain ⟨-, hcase⟩ | ⟨w, rest', -, hcase⟩ | ⟨rest', -, hcase⟩ | ⟨rest', -, hcase⟩ := readerAnswer_cases s a n
  · rw [hcase] at h
    exact toNat_lt_of_imageAnswer (congrArg Prod.fst h)
  · rw [hcase] at h
    injection h with hvalue _
    injection hvalue with hvalue
    rw [← hvalue, BitVec.toNat_ofNat]
    exact (Nat.mod_le _ _).trans_lt (Nat.mod_lt _ (Nat.two_pow_pos _))
  · rw [hcase] at h
    cases h
  · rw [hcase] at h
    cases h

theorem readerAnswer_of_never {s : State} {rest : List ReaderAnswer} (h : s.answers = .never :: rest) (a : Word)
    (n : ReadSize) : readerAnswer s a n = (.never, .never :: rest) := by
  rw [readerAnswer, h]

/-- The slot of a table at a multiple of 8 is at a multiple of 8, also at the end of the address space. -/
theorem entryAddress_mod_eight {t : Word} (h : t.toNat % 8 = 0) (i : BitVec 9) : (entryAddress t i).toNat % 8 = 0 := by
  have hi : (8 * i.setWidth 64 : Word).toNat = 8 * i.toNat := by
    have hlt := i.isLt
    rw [BitVec.toNat_mul, BitVec.toNat_setWidth_of_le (by decide)]
    exact Nat.mod_eq_of_lt (by simp; omega)
  rw [entryAddress, BitVec.toNat_add, hi]
  omega

theorem mod_eight_of_nextRead {s : State} (hinv : SequencerInv s) {a : Word} (h : nextRead s = some (a, .b8))
    (hroot : ∀ f, s.walk = some f → f.level = .l4 → f.root.toNat % 8 = 0) : a.toNat % 8 = 0 := by
  obtain ⟨f, hwalk, rfl, -⟩ | ⟨r, c, -, -, -, -, rfl, hsize⟩ := nextRead_cases h
  · have hf := hinv.walk f hwalk
    apply entryAddress_mod_eight
    by_cases hlevel : f.level = .l4
    · rw [hf.atRoot hlevel]
      exact hroot f hwalk hlevel
    · have haligned := (hf.aligned hlevel).1
      omega
  · unfold dataReadSize at hsize
    split at hsize
    · next hfits => exact hfits.1
    · cases hsize

/-! ### What a step does not depend on -/

/-- `v` comes from `u` as `v'` from `u'`: still equal but for the history, and RSP is written in both or in neither. -/
def Alike (u u' v v' : State) : Prop :=
  SameButHistory v v' ∧ (v'.rsp = v.rsp ∨ v.rsp = u.rsp ∧ v'.rsp = u'.rsp)

theorem Alike.trans {u u' v v' w w' : State} (h : Alike u u' v v') (h' : Alike v v' w w') : Alike u u' w w' := by
  obtain ⟨-, hv⟩ := h
  obtain ⟨hsame, hw | ⟨hwv, hwv'⟩⟩ := h'
  · exact ⟨hsame, .inl hw⟩
  · exact ⟨hsame, by rwa [hwv, hwv']⟩

section Alike

variable {u u' : State} (h : SameButHistory u u')
include h

theorem alike_endCommand (r : Response) : Alike u u' (u.endCommand r) (u'.endCommand r) := by
  rw [SameButHistory] at h
  rw [h]
  exact ⟨rfl, .inl rfl⟩

theorem alike_sampleAbort : Alike u u' u.sampleAbort u'.sampleAbort := by
  rw [SameButHistory] at h
  have haborts : u'.aborts = u.aborts := by rw [h]
  unfold State.sampleAbort
  rw [haborts]
  split
  · exact ⟨h, .inr ⟨rfl, rfl⟩⟩
  · rw [h]
    exact ⟨rfl, .inr ⟨rfl, rfl⟩⟩
  · rw [h]
    exact ⟨rfl, .inl rfl⟩

theorem Move.alike_apply (m : Move) : Alike u u' (m.apply u) (m.apply u') := by
  cases m with
  | ends r => exact alike_endCommand h r
  | goesOn t =>
    rw [SameButHistory] at h
    rw [h]
    exact ⟨rfl, .inr ⟨rfl, rfl⟩⟩

theorem Move.alike_run (m : Move) (afterRead : Bool) : Alike u u' (m.run afterRead u) (m.run afterRead u') := by
  have happly := m.alike_apply h
  have hreads : (m.apply u').ReadsNext = (m.apply u).ReadsNext := by
    have hphase : (m.apply u').phase = (m.apply u).phase := by rw [happly.1]; rfl
    rw [State.ReadsNext, hphase]
  unfold Move.run
  simp only [hreads]
  split
  · exact happly.trans (alike_sampleAbort happly.1)
  · exact happly

theorem alike_afterRead (a : Word) (n : ReadSize) (answer : Option Word) (rest : List ReaderAnswer) :
    SameButHistory (afterRead u a n answer rest) (afterRead u' a n answer rest) := by
  rw [SameButHistory] at h
  rw [h]
  rfl

end Alike

/-- A read changes none of the caller's commands, and neither does what follows it. -/
theorem commands_of_nextRead {s t : State} {a : Word} {n : ReadSize} {v : Word} {rest : List ReaderAnswer}
    (hread : nextRead s = some (a, n)) (hanswer : readerAnswer s a n = (.value v, rest)) (h : step s = .next t) :
    t.answers = rest ∧ t.commands = s.commands := by
  have hstep : ∃ u, step s = .next u ∧ u.surroundings = (afterRead s a n (some v) rest).surroundings := by
    obtain ⟨f, hwalk, rfl, rfl⟩ | ⟨r, c, hwalk, hrange, hcopy, hleft, rfl, rfl⟩ := nextRead_cases hread
    · exact ⟨_, step_walk_answered hwalk hanswer, exec_surroundings (exec_entryRow (by exact hwalk) v)⟩
    · exact ⟨_, step_copy_answered hwalk hrange hcopy hleft hanswer, State.afterDataRead_surroundings _ _ _ _ _⟩
  obtain ⟨u, hu, hsame⟩ := hstep
  obtain rfl : u = t := by
    have hut := hu.symm.trans h
    injection hut
  obtain ⟨-, hanswers, hcommands, -⟩ := State.surroundings_eq_iff.mp hsame
  exact ⟨hanswers, hcommands⟩

/-! ### The abort input -/

/-- The state with another abort input. -/
def State.withAborts (s : State) (as : List Bool) : State := { s with aborts := as }

theorem Move.apply_withAborts (m : Move) (s : State) (as : List Bool) :
    m.apply (s.withAborts as) = (m.apply s).withAborts as := by
  cases m <;> rfl

/-- A move that another read does not follow leaves the abort input alone. -/
theorem Move.run_withAborts_of_not_readsNext {m : Move} {s : State} (h : ¬ (m.apply s).ReadsNext) (as : List Bool) :
    m.run true (s.withAborts as) = (m.apply s).withAborts as := by
  rw [Move.run_of_not_readsNext, Move.apply_withAborts]
  rw [Move.apply_withAborts]
  exact h

/-- A move that another read follows samples it (R712). -/
theorem Move.run_withAborts_of_readsNext {m : Move} {s : State} (h : (m.apply s).ReadsNext) (as : List Bool) :
    m.run true (s.withAborts as) = ((m.apply s).withAborts as).sampleAbort := by
  rw [Move.run_of_readsNext, Move.apply_withAborts]
  rw [Move.apply_withAborts]
  exact h

/-- An aborted command leaves what surrounds the block. -/
theorem raise_withAborts_eq_answered {s t : State} (h : t.guest = s.guest) (hcommands : t.commands = s.commands)
    (as : List Bool) (e : ErrInfo) : (t.withAborts as).raise e =
      answered { s with answers := t.answers, readLog := t.readLog, aborts := as } (failed (errorCode e) e) := by
  obtain ⟨hmem, hinaccessible, harch, hva, hm⟩ := State.guest_eq_iff.mp h
  simp [State.raise_eq_answered, answered, State.withAborts, hmem, hinaccessible, harch, hva, hm, hcommands]

end Sys2Proof.Machine

namespace Sys2Proof.Certificates

open Sys2Proof.Machine Sys2Proof.Safety

/-- Settles O57: every move of a step from a state in order is in order (`step_shape`). -/
theorem everyStepKeepsTheSequencerInOrder : Obligations.EveryStepKeepsTheSequencerInOrder :=
  fun _ _ hinv h => step_sequencerInv hinv h

/-- Settles O58: RSP is written by a move in order, and a walk in order ends with a translation result. -/
theorem everyStepKeepsTheResponseInOrder : Obligations.EveryStepKeepsTheResponseInOrder :=
  fun _ _ hinv hrsp h => step_responseInv hinv hrsp h

/-- Settles O56: the reset state is idle, its image lists nothing and RSP is empty. -/
theorem resetIsInOrder : Obligations.ResetIsInOrder :=
  ⟨GuestOk.sequencerInv_of_idle ⟨configLegal_reset, rfl⟩ rfl, fun _ h => by cases h⟩

/-- Settles O47: `step_failed`. -/
theorem failedReadEndsTheCommand : Obligations.FailedReadEndsTheCommand :=
  fun _ _ _ _ hread hanswer => step_failed hread hanswer

/-- Settles O48: the step is the same state again, so every run is. -/
theorem unansweredReadWaitsForever : Obligations.UnansweredReadWaitsForever := by
  intro s a n rest hread hanswers k
  have hstep := step_unanswered hread (readerAnswer_of_never hanswers a n)
  induction k with
  | zero => exact runsTo_zero s
  | succ k ih => exact runsTo_succ_iff.mpr ⟨s, hstep, ih⟩

/-- Settles O49: a move adds nothing to the log, so a step adds the read it issues or nothing. -/
theorem eachStepReadsAtMostOnce : Obligations.EachStepReadsAtMostOnce := by
  intro s t h
  obtain ⟨-, m, -, rfl⟩ | ⟨a, n, v, rest, hread, hanswer, m, -, rfl⟩ | ⟨a, n, rest, hread, -, rfl⟩ | rfl := step_inversion h
  · exact .inl (m.run_readLog s false)
  · refine .inr ⟨_, m.run_readLog _ true, hread, size_of_nextRead hread, ?_⟩
    rintro _ ⟨rfl⟩
    exact toNat_lt_of_readerAnswer hanswer
  · exact .inr ⟨_, rfl, hread, size_of_nextRead hread, fun _ hv => by cases hv⟩
  · exact .inl rfl

/-- Settles O50: below level 4 the table is page-aligned, and a data read of 8 bytes is at a multiple of 8. -/
theorem eightByteReadsAreAligned : Obligations.EightByteReadsAreAligned :=
  fun _ _ hinv hread hroot => mod_eight_of_nextRead hinv hread hroot

/-- Settles O53: a move writes RSP only where it ends the command, and so does a set abort input. -/
theorem anOutcomeLeavesTheBlockIdle : Obligations.AnOutcomeLeavesTheBlockIdle := by
  intro s t h hne
  obtain ⟨-, m, -, rfl⟩ | ⟨a, n, v, rest, -, -, m, -, rfl⟩ | ⟨a, n, rest, -, -, rfl⟩ | rfl := step_inversion h
  · exact (m.run_rsp s false).resolve_left hne
  · exact (m.run_rsp _ true).resolve_left hne
  · exact State.endCommand_ended _ _
  · exact absurd rfl hne

/-- Settles O55, by what a step can do. -/
theorem everyStepAnswersANextState : Obligations.EveryStepAnswersANextState := by
  intro s
  obtain ⟨-, m, -, hstep⟩ | ⟨a, n, v, rest, -, -, m, -, hstep⟩ | ⟨a, n, rest, -, -, hstep⟩ | ⟨a, n, rest, -, -, hstep⟩ :=
    step_shape s <;> exact ⟨_, hstep s.record⟩

/-- Settles O59: the step looks at no record (`step_shape`), and the moves are alike (`Move.run_sameButHistory`). -/
theorem stepDoesNotDependOnPastCommands : Obligations.StepDoesNotDependOnPastCommands := by
  intro s s' t hsame h
  have hwithin : s' = s.within { rsp := s'.rsp, aborts := s.aborts, readLog := s'.readLog } := hsame
  obtain ⟨-, m, -, hstep⟩ | ⟨a, n, v, rest, -, -, m, -, hstep⟩ | ⟨a, n, rest, -, -, hstep⟩ | ⟨a, n, rest, -, -, hstep⟩ :=
    step_shape s
  all_goals
    have ht := h.symm.trans (hstep s.record)
    injection ht with ht
    have ht' := hstep { rsp := s'.rsp, aborts := s.aborts, readLog := s'.readLog }
    rw [← hwithin] at ht'
    subst ht
  · obtain ⟨hhistory, hrsp⟩ := m.alike_apply hsame
    exact ⟨_, [], ht', hhistory, by simp; rfl, by simp, hrsp⟩
  · obtain ⟨hhistory, hrsp⟩ := m.alike_run (alike_afterRead hsame a n (some v) rest) true
    exact ⟨_, [{ addr := a, size := n, answer := some v }], ht', hhistory, m.run_readLog _ _, m.run_readLog _ _, hrsp⟩
  · obtain ⟨hhistory, hrsp⟩ := alike_endCommand (alike_afterRead hsame a n none rest) _
    exact ⟨_, [{ addr := a, size := n, answer := none }], ht', hhistory, rfl, rfl, hrsp⟩
  · exact ⟨s', [], ht', hsame, by simp; rfl, by simp, .inr ⟨rfl, rfl⟩⟩

/-- Settles O52: the abort input is sampled in `Move.run` after an answered read, where another read follows, and nowhere
else; the move itself does not look at it. -/
theorem abortActsExactlyBetweenReads : Obligations.AbortActsExactlyBetweenReads := by
  intro s t h
  have hguest : t.guest = s.guest := step_guest (s := s.withAborts []) h
  obtain ⟨-, m, -, hstep⟩ | ⟨a, n, v, rest, hread, hanswer, m, -, hstep⟩ | ⟨a, n, rest, -, -, hstep⟩ |
    ⟨a, n, rest, -, -, hstep⟩ := step_shape s
  all_goals
    have ht := h.symm.trans (hstep { s.record with aborts := [] })
    injection ht with ht
  case inr.inl =>
    have hcommands : t.commands = s.commands :=
      (commands_of_nextRead (s := s.withAborts []) hread hanswer h).2
    have hmoves (as : List Bool) : step { s with aborts := as } =
        .next (m.run true ((afterRead s a n (some v) rest).withAborts as)) := hstep { s.record with aborts := as }
    replace ht : t = m.run true ((afterRead s a n (some v) rest).withAborts []) := ht
    have hlog : t.readLog ≠ s.readLog := by
      rw [ht, Move.run_readLog]
      simp [State.withAborts, afterRead]
    by_cases hreads : (m.apply (afterRead s a n (some v) rest)).ReadsNext
    · have ht' : t = (m.apply (afterRead s a n (some v) rest)).withAborts [] := by
        rw [ht, Move.run_withAborts_of_readsNext hreads]
        rfl
      rw [if_pos ⟨hlog, ht' ▸ hreads⟩]
      refine fun as => ⟨?_, ?_⟩
      · rw [hmoves, Move.run_withAborts_of_readsNext hreads, ht']
        rfl
      · rw [hmoves, Move.run_withAborts_of_readsNext hreads]
        refine congrArg _ (Eq.trans ?_ (raise_withAborts_eq_answered hguest hcommands as .aborted))
        rw [ht']
        rfl
    · have ht' : t = (m.apply (afterRead s a n (some v) rest)).withAborts [] := by
        rw [ht, Move.run_withAborts_of_not_readsNext hreads]
      rw [if_neg (by rintro ⟨-, hphase⟩; rw [ht'] at hphase; exact hreads hphase)]
      intro as
      rw [hmoves, Move.run_withAborts_of_not_readsNext hreads, ht']
      rfl
  case inl =>
    replace ht : t = m.apply (s.withAborts []) := ht
    rw [Move.apply_withAborts] at ht
    have hlog : t.readLog = s.readLog := by
      rw [ht]
      exact m.apply_readLog s
    rw [if_neg fun hboth => hboth.1 hlog]
    intro as
    rw [ht]
    exact (hstep { s.record with aborts := as }).trans (congrArg _ (m.apply_withAborts s as))
  case inr.inr.inl =>
    rw [if_neg fun hboth => State.not_readsNext_of_idle (by rw [ht]; rfl) hboth.2]
    intro as
    rw [ht]
    exact hstep { s.record with aborts := as }
  case inr.inr.inr =>
    rw [if_neg fun hboth => hboth.1 (by rw [ht]; rfl)]
    intro as
    rw [ht]
    exact hstep { s.record with aborts := as }

end Sys2Proof.Certificates

/-!
The block and its other agents: construction, the caller's registers, what one step runs, and the refusals of instructions
that no step asks for.
-/

namespace Sys2Proof.Machine

open Sys2Proof.Safety

/-! ### Construction and the caller -/

theorem State.construct_of_arch_ne {arch : BitVec 8} (h : arch ≠ Config.archX86_64) (m : Nat) :
    State.construct arch m = .fault .unsupportedArchitecture := if_pos h

theorem State.construct_of_illegal {m : Nat} (h : m < Config.minM ∨ Config.maxM < m) :
    State.construct Config.archX86_64 m = .fault .invalidConfiguration :=
  (if_neg (by decide)).trans (if_pos h)

theorem State.issueCommand_of_empty {s : State} (h : s.phase = .idle) (hcmd : s.cmd = none) (w : CommandWord) :
    s.issueCommand w = .next { s with cmd := some w } := if_pos ⟨h, hcmd⟩

theorem State.issueCommand_of_busy {s : State} (h : s.phase ≠ .idle) (w : CommandWord) :
    s.issueCommand w = .refused .commandWhileBusy := if_neg fun hboth => h hboth.1

theorem State.readResponse_of_rsp {s : State} {r : Response} (h : s.rsp = some r) : s.readResponse = .next r := by
  rw [State.readResponse, h]

/-- The step of an idle block with an empty CMD is the caller's. -/
theorem step_of_caller {s : State} (h : s.phase = .idle) (hcmd : s.cmd = none) : step s = .next s.callerStep := by
  obtain ⟨hwalk, hrange, htable⟩ := s.phase_idle_iff.mp h
  simp only [step, fetch, hwalk, hrange, htable, hcmd]

/-! ### Refusals -/

/-- A command starts in no busy block (R811). -/
theorem exec_command_of_busy {i : Instr} {s : State} (hkind : i.kind = .command) (h : s.phase ≠ .idle) :
    exec i s = .refused .commandWhileBusy := by
  cases i with
  | bits | split | pteDecode | resolve | read | segCreate | gateDecode | gdt | idt | illegalCommand => exact if_neg h
  | _ => cases hkind

theorem State.inWalk_of_no_frame {s : State} {L : Level} (h : ∀ f, s.walk = some f → f.level ≠ L) (k : WalkFrame → State) :
    s.inWalk L k = .refused .entryOutsideWalk := by
  unfold State.inWalk
  split
  · next f hf => exact if_neg (h f hf)
  · rfl

theorem State.inSlot_of_no_slot {s : State} {kind : TableKind} {stride : Nat}
    (h : s.phase = .table → ∀ t, s.table = some t → t.buf ≠ none → t.kind = kind → t.bytes < t.off + stride)
    (k : TableFrame → List Byte → State) : s.inSlot kind stride k = .refused .slotOutsideTable := by
  unfold State.inSlot
  split
  · next hphase =>
    split
    · next t ht =>
      split
      · next buf hbuf => exact if_neg fun hslot => (h hphase t ht (by simp [hbuf]) hslot.1).not_ge hslot.2
      · rfl
    · rfl
  · rfl

theorem exec_entry_of_no_frame {i : Instr} {L : Level} {s : State} (hkind : i.kind = .entry L)
    (h : ∀ f, s.walk = some f → f.level ≠ L) : exec i s = .refused .entryOutsideWalk := by
  cases i with
  | pteL4P0 | pteL4P1PS0 | pteL4P1PS1 | pteL3P0PS0 | pteL3P0PS1 | pteL3P1PS0 | pteL3P1PS1 | pteL2P0PS0 | pteL2P0PS1
  | pteL2P1PS0 | pteL2P1PS1 | pteL1P0 | pteL1P1 =>
    cases hkind
    exact State.inWalk_of_no_frame h _
  | _ => cases hkind

theorem exec_segment_of_no_slot {i : Instr} {s : State} (hkind : i.kind = .segment)
    (h : s.phase = .table → ∀ t, s.table = some t → t.buf ≠ none → t.kind = .gdt → t.bytes < t.off + 8) :
    exec i s = .refused .slotOutsideTable := by
  cases i with
  | segdescData | segdescCode | segdescNull | segdescCallgate | segdescTssT9 | segdescTssTB | segdescTssTD
  | segdescUnsupportedT1 | segdescUnsupportedT2 | segdescUnsupportedT3 | segdescUnsupportedT4 | segdescUnsupportedT5
  | segdescUnsupportedT6 | segdescUnsupportedT7 | segdescUnsupportedT8 | segdescUnsupportedTA | segdescUnsupportedTC
  | segdescUnsupportedTE => exact State.inSlot_of_no_slot h _
  | _ => cases hkind

theorem exec_gate_of_no_slot {i : Instr} {s : State} (hkind : i.kind = .gate)
    (h : s.phase = .table → ∀ t, s.table = some t → t.buf ≠ none → t.kind = .idt → t.bytes < t.off + 16) :
    exec i s = .refused .slotOutsideTable := by
  cases i with
  | gatedesc => exact State.inSlot_of_no_slot h _
  | _ => cases hkind

/-! ### The bytes of a slot -/

/-- The low half of a slot is its first 8 bytes. -/
theorem field_slotValue_low (buf : List Byte) (off : Nat) :
    field (slotValue buf off) 0 64 = BitVec.ofNat 64 (le ((buf.drop off).take 8)) := by
  have hlow := le_lt ((buf.drop off).take 8)
  apply BitVec.eq_of_toNat_eq
  rw [toNat_lowHalf, slotValue, BitVec.toNat_ofNat, BitVec.toNat_ofNat, le_take_add _ 8 8]
  omega

theorem fetch_idt_slot {s : State} {t : TableFrame} {buf : List Byte} (hwalk : s.walk = none) (hrange : s.range = none)
    (htable : s.table = some t) (hbuf : t.buf = some buf) (hkind : t.kind = .idt) (h : t.off + 16 ≤ t.bytes) :
    fetch s = .run (gateRow (slotValue buf t.off)) s := by
  have hleft : ¬ t.bytes - t.off < 16 := by omega
  simp only [fetch, hwalk, hrange, htable, tableStep, hbuf, hkind, if_neg hleft]

/-! ### The image's bytes -/

theorem Memory.bytes_eq_map (m : Memory) (a : Word) (n : Nat) :
    m.bytes a n = (List.range n).map fun i => m.read (a + BitVec.ofNat 64 i).toNat := by
  apply List.ext_getElem?
  intro i
  by_cases hi : i < n
  · rw [Memory.getElem?_bytes m a hi, List.getElem?_map, List.getElem?_range hi, Option.map_some]
  · rw [List.getElem?_eq_none (by simpa using hi), List.getElem?_eq_none (by simpa using hi)]

/-- A 1-byte read of an accessible image answers the byte. -/
theorem imageAnswer_b1 (m : Memory) (a : Word) :
    imageAnswer m [] a .b1 = .value ((m.read a.toNat).setWidth 64) := by
  have hbyte : le (m.bytes a 1) = (m.read a.toNat).toNat := by simp [Memory.bytes, le]
  simp [imageAnswer, ReadSize.bytes, hbyte, BitVec.ofNat_toNat]

end Sys2Proof.Machine

namespace Sys2Proof.Certificates

open Sys2Proof.Machine Sys2Proof.Safety

/-- Settles O2: `State.reset` is what construction with M = 40 gives, and its image lists nothing. -/
theorem resetIsTheBlockAtM40 : Obligations.ResetIsTheBlockAtM40 :=
  ⟨State.construct_of_legal 40 (by decide) (by decide), rfl, rfl, rfl, rfl, rfl, rfl, fun _ => rfl⟩

/-- Settles O3: the architecture is looked at first, then M. -/
theorem constructionRejectsOtherConfigurations : Obligations.ConstructionRejectsOtherConfigurations :=
  ⟨fun _ m h => State.construct_of_arch_ne h m, fun _ h => State.construct_of_illegal h⟩

/-- Settles O4: the two registers by their cases, and the caller's step by its list of commands. -/
theorem callerWritesAndReadsTheBlock : Obligations.CallerWritesAndReadsTheBlock := by
  refine ⟨fun s w h hcmd => State.issueCommand_of_empty h hcmd w, fun s w h => State.issueCommand_of_busy h w,
    fun s r h => State.readResponse_of_rsp h, fun s h => State.readResponse_of_rsp_eq_none h, ?_, ?_⟩
  · intro s h hcmd hcommands
    rw [step_of_caller h hcmd, State.callerStep, hcommands]
  · intro s w rest h hcmd hcommands
    rw [step_of_caller h hcmd, State.callerStep, hcommands]

/-- Settles O5: six words and what they stand for, each a closed computation. -/
theorem writtenWordsDecode : Obligations.WrittenWordsDecode := by
  refine ⟨?_, ?_, ?_, ?_, ?_, ?_⟩ <;> decide

/-- Settles O8: an opcode outside 0x01 to 0x09 decodes to the illegal command, and each of the nine to its own. -/
theorem illegalOpcodesSelectNoCommand : Obligations.IllegalOpcodesSelectNoCommand := by
  intro w
  constructor
  · rintro ⟨op, h⟩
    obtain ⟨bs, hbs⟩ := exists_encode_decodeCommand_eq_cons w
    have hwf := wf_decodeCommand w
    rw [h] at hbs hwf
    rw [← toNat_opcode, ← (List.cons.inj hbs).1]
    exact (opcodeIsIllegal_iff op).mp hwf
  · exact fun h => ⟨_, decodeCommand_of_illegal_opcode h⟩

/-- Settles O10: the bytes of CMD decode to the command that the step starts. -/
theorem stepRunsTheDecodedCommand : Obligations.StepRunsTheDecodedCommand := by
  intro s w i hidle hcmd hdecode
  rw [decode_command_bytesLE] at hdecode
  rw [step_of_command hidle hcmd, Except.ok.inj hdecode]

/-- Settles O11: the bytes of the answer decode to the row that the walker runs. -/
theorem stepRunsTheDecodedEntry : Obligations.StepRunsTheDecodedEntry := by
  intro s f raw rest i hwalk hanswer hdecode
  rw [decode_entry f.level (by simp), take_bytesLE _ le_rfl, ofNat_le_bytesLE (k := 8) rfl] at hdecode
  rw [step, fetch_of_walk hwalk, walkStep, memRead_of_value hanswer, Except.ok.inj hdecode]

/-- Settles O12: the bytes at the cursor decode to the row of the slot that the step reads there. -/
theorem stepRunsTheDecodedSlot : Obligations.StepRunsTheDecodedSlot := by
  intro s t buf i hwalk hrange htable hbuf hlength
  refine ⟨fun hkind hoff hdecode => ?_, fun hkind hoff hdecode => ?_⟩
  · rw [decode_segment (by rw [List.length_drop]; omega)] at hdecode
    rw [step, fetch_gdt_slot hwalk hrange htable hbuf hkind hoff, field_slotValue_low, Except.ok.inj hdecode]
  · rw [decode_gate (by rw [List.length_drop]; omega)] at hdecode
    rw [step, fetch_idt_slot hwalk hrange htable hbuf hkind hoff, slotValue, Except.ok.inj hdecode]

/-- Settles O45: a command's meaning starts with the test of the phase. -/
theorem busyBlockRefusesCommands : Obligations.BusyBlockRefusesCommands :=
  fun _ _ hkind hbusy => exec_command_of_busy hkind hbusy

/-- Settles O46: a row's meaning starts with the test for its frame. -/
theorem rowsOutsideTheirFrameAreRefused : Obligations.RowsOutsideTheirFrameAreRefused :=
  ⟨fun _ _ _ hkind h => exec_entry_of_no_frame hkind h, fun _ _ hkind h => exec_segment_of_no_slot hkind h,
    fun _ _ hkind h => exec_gate_of_no_slot hkind h⟩

/-- Settles O51: both kinds of read answer the image's bytes (`Memory.bytes_eq_map`). -/
theorem eightByteAnswerIsEightBytes : Obligations.EightByteAnswerIsEightBytes :=
  fun m a _ h => ⟨(bytesLE_of_imageAnswer h).trans (m.bytes_eq_map a 8), fun _ _ => imageAnswer_b1 m _⟩

end Sys2Proof.Certificates

/-!
The meanings of the instructions, one by one: PTE.DECODE and SEG.CREATE, the starts of READ, GDT and IDT, the entry rows, the
slot rows and the data read of a chunk (spec/41_translation.md, 42_linear_read.md, 43_segment_descriptors.md,
44_gate_descriptors.md).
-/

namespace Sys2Proof.Machine

open Sys2Proof.Safety

/-! ### PTE.DECODE -/

theorem levelOfByte_of_toNat {b : BitVec 8} {L : Level} (h : b.toNat = L.toNat) : levelOfByte b = some L := by
  rw [levelOfByte, h]
  cases L <;> rfl

theorem levelOfByte_eq_none {b : BitVec 8} (h : b.toNat = 0 ∨ 4 < b.toNat) : levelOfByte b = none := by
  unfold levelOfByte
  split
  case h_5 => rfl
  all_goals omega

/-- A decoded entry is that of the layout, field by field (R428). -/
theorem entryIs_decodeEntry {M : Nat} (hmin : 32 ≤ M) (hmax : M ≤ 52) (L : Level) (t : Word) (i : BitVec 9) (raw : Word) :
    EntryIs M L t i.toNat raw (decodeEntry M L t i raw) where
  level := rfl
  tableBase := rfl
  index := rfl
  rawValue := rfl
  flags := flagsAre_decodeEntry M L t i raw
  frame := frameIs_decodeEntry hmin hmax L t i raw
  reserved := ⟨getLsbD_reservedBits hmax L raw, faulty_iff hmax L raw⟩

/-! ### SEG.CREATE -/

/-- The code of a descriptor is in its low half. -/
theorem slice_lowHalf (b : Word128) : slice (field b 0 64).toNat 44 40 = slice b.toNat 44 40 := by
  rw [toNat_lowHalf, slice, slice]
  omega

theorem classify_lowHalf (b : Word128) : classify (field b 0 64) = kindByC (slice b.toNat 44 40) := by
  rw [classify_eq_kindByC, slice_lowHalf]

/-- The type nibble is the low part of the code. -/
theorem type_lowHalf (b : Word128) : field (field b 0 64) 40 4 = BitVec.ofNat 4 (slice b.toNat 44 40) := by
  apply BitVec.eq_of_toNat_eq
  rw [toNat_field_eq_slice _ (hi := 43) (by decide) (by decide), toNat_lowHalf, BitVec.toNat_ofNat, slice, slice]
  omega

theorem SegKind.le_size (k : SegKind) : 8 ≤ k.size := by
  cases k <;> decide

theorem SegKind.size_eq_sixteen {k : SegKind} (h : 8 < k.size) : k.size = 16 := by
  cases k
  case tss | callgate => rfl
  all_goals exact absurd h (by decide)

/-! ### The two halves of a long slot -/

/-- The upper half of a slot is its second 8 bytes, behind the low half `d`. -/
theorem append_slotValue_high (buf : List Byte) (off : Nat) (d : Word) :
    field (slotValue buf off) 64 64 ++ d = BitVec.ofNat 128 (d.toNat + 2 ^ 64 * le ((buf.drop (off + 8)).take 8)) := by
  have hlow : le ((buf.drop off).take 8) < 2 ^ 64 :=
    (le_lt _).trans_le (Nat.pow_le_pow_right (by decide) (by simp; omega))
  have hhigh : le ((buf.drop (off + 8)).take 8) < 2 ^ 64 :=
    (le_lt _).trans_le (Nat.pow_le_pow_right (by decide) (by simp; omega))
  have hd := d.isLt
  apply BitVec.eq_of_toNat_eq
  rw [toNat_append_eq_add, field_toNat, bits_eq_div_mod, slotValue, BitVec.toNat_ofNat, BitVec.toNat_ofNat,
    le_take_add _ 8 8, List.drop_drop]
  omega

/-! ### The start of READ, GDT and IDT -/

theorem State.rangeLoop_of_not_acceptsVa {s : State} {r : RangeFrame} (h : r.remaining ≠ 0)
    (haccepts : s.acceptsVa r.cur = false) (afterRead : Bool) :
    s.rangeLoop r afterRead = s.raise (.addressWidthViolation r.cur) :=
  (if_neg h).trans (if_neg (by simp [haccepts]))

theorem toNat_limit_add_one (limit : BitVec 16) : (BitVec.ofNat 64 (limit.toNat + 1)).toNat = limit.toNat + 1 := by
  rw [BitVec.toNat_ofNat, Nat.mod_eq_of_lt (by omega)]

theorem limit_add_one_ne_zero (limit : BitVec 16) : BitVec.ofNat 64 (limit.toNat + 1) ≠ 0 := by
  rw [BitVec.toNat_ne, toNat_limit_add_one]
  exact Nat.succ_ne_zero _

section BeginTable

variable {s : State} {base : Word} (kind : TableKind) (root : Word) (limit : BitVec 16)

theorem State.beginTable_of_acceptsVa (h : s.acceptsVa base = true) :
    s.beginTable kind root base limit =
      { s with table := some (firstTableFrame kind root base limit)
               range := some { root := root, cur := base, remaining := BitVec.ofNat 64 (limit.toNat + 1), out := []
                               copy := none }
               walk := some (firstWalkFrame root base) } := by
  rw [State.beginTable_eq]
  exact State.rangeLoop_of_acceptsVa (limit_add_one_ne_zero limit) h

theorem State.beginTable_of_not_acceptsVa (h : s.acceptsVa base = false) :
    s.beginTable kind root base limit = s.raise (.addressWidthViolation base) := by
  rw [State.beginTable_eq]
  exact State.rangeLoop_of_not_acceptsVa (limit_add_one_ne_zero limit) h false

end BeginTable

/-! ### The entry rows -/

section Rows

variable {s : State} {f : WalkFrame} {raw : Word} (hwalk : s.walk = some f)
include hwalk

theorem walkUnmapped_of_frame {L : Level} (hL : f.level = L) :
    walkUnmapped L raw s = .next (s.endWalk (unmappedResult (f.entries ++ [f.entry s.m raw]))) :=
  State.inWalk_of_level _ hwalk hL

theorem walkMapped_of_frame {L : Level} (hL : f.level = L) :
    walkMapped L raw s = .next (s.endWalk (mappedResult f.split L f.entries (f.entry s.m raw))) :=
  State.inWalk_of_level _ hwalk hL

theorem walkDescend_of_frame {L : Level} (hL : f.level = L) :
    walkDescend L (below L) raw s = .next (State.sampleAbort { s with walk := some (f.descend s.m raw) }) := by
  subst hL
  exact State.inWalk_of_level _ hwalk rfl

end Rows

/-- The three cases of the abort input where it is sampled (R712). -/
theorem sampleAbort_rules {u : State} {o : Host.Outcome State Fault Refusal} (h : o = .next u.sampleAbort) :
    (u.aborts = [] → o = .next { u with aborts := [] }) ∧
    (∀ rest, u.aborts = false :: rest → o = .next { u with aborts := rest }) ∧
    (∀ rest, u.aborts = true :: rest → o = .next (State.raise { u with aborts := rest } .aborted)) := by
  refine ⟨fun haborts => ?_, fun rest haborts => ?_, fun rest haborts => ?_⟩
  · rw [h, State.sampleAbort_of_aborts_nil haborts, ← haborts]
  · rw [State.sampleAbort, haborts] at h
    exact h
  · rw [State.sampleAbort, haborts] at h
    exact h

/-- A mapped page in numbers (R426, R432). -/
theorem mappedResult_eq {M : Nat} {sp : AddressSplit} {L : Level} {es : List Entry} {raw : Word} {e : Entry}
    (hframe : FrameIs M L raw e) {k : Nat} (hk : e.frameShift = k) :
    mappedResult sp L es e =
      { pageBase := some (BitVec.ofNat 64 (slice raw.toNat (M - 1) k * 2 ^ k)), pageSize := some (2 ^ k)
        pageOffset := some (levelOffset sp L), entries := es ++ [e] } := by
  rw [mappedResult, Entry.base, hframe.frameRef, hk, Nat.shiftLeft_eq]

/-- The frame below an entry in table form, in numbers (R426, R430). -/
theorem descend_eq {M : Nat} {f : WalkFrame} {raw : Word} (hframe : FrameIs M f.level raw (f.entry M raw))
    (hshift : (f.entry M raw).frameShift = 12) :
    f.descend M raw =
      { f with level := below f.level, tableBase := BitVec.ofNat 64 (slice raw.toNat (M - 1) 12 * 2 ^ 12)
               entries := f.entries ++ [f.entry M raw] } := by
  have href : frameRef M f.level raw = slice raw.toNat (M - 1) 12 := by
    rw [← hshift]
    exact hframe.frameRef
  rw [WalkFrame.descend, href, Nat.shiftLeft_eq]

/-- Bit 7 of a row that looks at it. -/
theorem bit_seven_of_matchesRow {raw pattern : Word} (hp : pattern &&& 0x81 = pattern)
    (h : matchesRow raw 0x81 pattern = true) : raw.getLsbD 7 = pattern.getLsbD 7 :=
  ((matchesRow_present_ps_iff hp).mp h).2

end Sys2Proof.Machine

namespace Sys2Proof.Certificates

open Sys2Proof.Machine Sys2Proof.Safety

/-- Settles O18: the level and the index are checked, then the entry is decoded. -/
theorem pteDecodeAnswersTheEntry : Obligations.PteDecodeAnswersTheEntry := by
  intro L level tableBase index raw s hidle hconfig
  refine ⟨fun hlevel hindex => ?_, fun hillegal => ?_⟩
  · have hwidth : (index.setWidth 9).toNat = index.toNat := by
      rw [BitVec.toNat_setWidth, Nat.mod_eq_of_lt hindex]
    refine ⟨_, exec_pteDecode_of_legal hidle (levelOfByte_of_toNat hlevel) hindex tableBase raw, ?_⟩
    rw [← hwidth]
    exact entryIs_decodeEntry hconfig.minM hconfig.maxM L tableBase _ raw
  · exact exec_pteDecode_of_illegal hidle ((or_assoc.mpr hillegal).imp_left levelOfByte_eq_none) tableBase raw

/-- Settles O21. -/
theorem notPresentRowsEndResolveUnmapped : Obligations.NotPresentRowsEndResolveUnmapped := by
  intro s f raw hwalk hrange
  have hrow {L : Level} (hL : f.level = L) := walkUnmapped_of_frame (raw := raw) hwalk hL
  rw [State.endWalk_of_range_none hrange] at hrow
  exact ⟨hrow, fun hL => ⟨hrow hL, hrow hL⟩, fun hL => ⟨hrow hL, hrow hL⟩, hrow⟩

/-- Settles O22. -/
theorem notPresentRowsFailARead : Obligations.NotPresentRowsFailARead := by
  intro s f r raw hwalk hrange
  have hrow {L : Level} (hL : f.level = L) := walkUnmapped_of_frame (raw := raw) hwalk hL
  rw [State.endWalk_of_unmapped hrange (.inl rfl)] at hrow
  exact ⟨hrow, fun hL => ⟨hrow hL, hrow hL⟩, fun hL => ⟨hrow hL, hrow hL⟩, hrow⟩

/-- Settles O23: the frame of a leaf is at the shift of its level, by bit 7 at levels 3 and 2. -/
theorem leafRowsEndResolveMapped : Obligations.LeafRowsEndResolveMapped := by
  intro s f raw hwalk hrange hconfig
  have hframe : FrameIs s.m f.level raw (f.entry s.m raw) :=
    frameIs_decodeEntry hconfig.minM hconfig.maxM f.level f.tableBase _ raw
  have hrow {L : Level} (hL : f.level = L) {k : Nat} (hk : (f.entry s.m raw).frameShift = k) :
      walkMapped L raw s = .next (s.complete (.translation
        { pageBase := some (BitVec.ofNat 64 (slice raw.toNat (s.m - 1) k * 2 ^ k)), pageSize := some (2 ^ k)
          pageOffset := some (levelOffset f.split L), entries := f.entries ++ [f.entry s.m raw] })) := by
    subst hL
    rw [walkMapped_of_frame hwalk rfl, State.endWalk_of_range_none hrange, mappedResult_eq hframe hk]
  refine ⟨fun hL hwf => hrow hL (hframe.shift3 hL (bit_seven_of_matchesRow rfl hwf)),
    fun hL hwf => hrow hL (hframe.shift2 hL (bit_seven_of_matchesRow rfl hwf)),
    fun hL _ => hrow hL (hframe.shiftElse ?_)⟩
  simp [hL]

/-- Settles O24: the end of a mapped walk inside a READ begins the chunk, and a data read follows. -/
theorem leafRowsStartAChunk : Obligations.LeafRowsStartAChunk := by
  intro s f r raw hwalk hrange
  have hrow {L : Level} (hL : f.level = L) :
      walkMapped L raw s = .next (State.sampleAbort { s with
        walk := none
        range := some (r.beginChunk (f.entry s.m raw).base (2 ^ (f.entry s.m raw).frameShift) (levelOffset f.split L)) }) := by
    rw [walkMapped_of_frame hwalk hL]
    exact congrArg _ (State.endWalk_of_mapped hrange rfl rfl rfl)
  exact ⟨fun hL => sampleAbort_rules (hrow hL), fun hL => sampleAbort_rules (hrow hL),
    fun hL => sampleAbort_rules (hrow hL)⟩

/-- Settles O25: at level 4 no entry is a leaf, and at levels 3 and 2 a table row has bit 7 clear. -/
theorem tableRowsDescend : Obligations.TableRowsDescend := by
  intro s f raw hwalk hconfig
  have hframe : FrameIs s.m f.level raw (f.entry s.m raw) :=
    frameIs_decodeEntry hconfig.minM hconfig.maxM f.level f.tableBase _ raw
  have hrow {L : Level} (hL : f.level = L) (hsmall : ¬ ((f.level = .l3 ∨ f.level = .l2) ∧ raw.getLsbD 7 = true)) :
      walkDescend L (below L) raw s = .next (State.sampleAbort { s with
        walk := some { f with
          level := below L, tableBase := BitVec.ofNat 64 (slice raw.toNat (s.m - 1) 12 * 2 ^ 12)
          entries := f.entries ++ [f.entry s.m raw] } }) := by
    rw [walkDescend_of_frame hwalk hL, descend_eq hframe (hframe.shiftElse hsmall), hL]
  refine ⟨fun hL => ⟨fun _ => sampleAbort_rules (hrow hL (by simp [hL])), fun _ => sampleAbort_rules (hrow hL (by simp [hL]))⟩,
    fun hL hwf => sampleAbort_rules (hrow hL ?_), fun hL hwf => sampleAbort_rules (hrow hL ?_)⟩
  · exact fun hleaf => Bool.noConfusion (hleaf.2.symm.trans (bit_seven_of_matchesRow rfl hwf))
  · exact fun hleaf => Bool.noConfusion (hleaf.2.symm.trans (bit_seven_of_matchesRow rfl hwf))

/-- Settles O26 (`exec_entryRow`). -/
theorem entryRowsCarryOutTheWalkLoop : Obligations.EntryRowsCarryOutTheWalkLoop :=
  fun _ _ raw hwalk => exec_entryRow hwalk raw

/-- Settles O28: the head of READ's loop, before its first page. -/
theorem readStartsWithTheFirstPage : Obligations.ReadStartsWithTheFirstPage := by
  intro root va length s hidle
  obtain ⟨-, -, htable⟩ := s.phase_idle_iff.mp hidle
  rw [exec_read_of_idle hidle, State.beginRange]
  refine ⟨fun hzero => congrArg _ ?_, fun hlength haccepts => congrArg _ ?_, fun hlength haccepts => congrArg _ ?_⟩
  · rw [State.rangeLoop_of_remaining_eq_zero hzero, State.endRange_of_table_none htable]
    rfl
  · exact State.rangeLoop_of_not_acceptsVa hlength haccepts false
  · exact State.rangeLoop_of_acceptsVa hlength haccepts

/-- Settles O35: the kind is that of the code (`classify_lowHalf`), and every size is 8 or 16. -/
theorem segCreateChecksInOrder : Obligations.SegCreateChecksInOrder := by
  intro n b s hidle
  dsimp only
  rw [← classify_lowHalf, ← type_lowHalf]
  refine ⟨exec_segCreate_of_large hidle, exec_segCreate_of_small hidle, exec_segCreate_of_unsupported hidle,
    fun k hmin hmax hkind hsize => ?_, fun k hmax hkind hsize => ?_⟩
  · have h := exec_segCreate_of_insufficient hidle hmin hmax hkind hsize
    rw [SegKind.size_eq_sixteen (hmin.trans_lt hsize)] at h
    exact h
  · exact ⟨_, exec_segCreate_of_kind hidle (k.le_size.trans hsize) hmax hkind hsize, segIs_decodeSeg k b⟩

/-- Settles O37: the table's READ has at least one byte, so its first page is walked or its address refused. -/
theorem tableCommandsReadTheTableFirst : Obligations.TableCommandsReadTheTableFirst := by
  intro root base limit s hidle
  rw [exec_gdt_of_idle hidle, exec_idt_of_idle hidle]
  exact ⟨fun h => ⟨congrArg _ (State.beginTable_of_acceptsVa .gdt root limit h),
      congrArg _ (State.beginTable_of_acceptsVa .idt root limit h)⟩,
    fun h => ⟨congrArg _ (State.beginTable_of_not_acceptsVa .gdt root limit h),
      congrArg _ (State.beginTable_of_not_acceptsVa .idt root limit h)⟩⟩

/-- Settles O38: each of the three kinds has 8 bytes. -/
theorem shortSlotsMoveTheCursorBy8 : Obligations.ShortSlotsMoveTheCursorBy8 := by
  intro s t buf d hwalk hrange htable hbuf hkind hoff
  have hrow {k : SegKind} (hk : k.size = 8) : ∃ x,
      segShort k d s = .next { s with table := some { t with off := t.off + 8, segs := t.segs ++ [x] } } ∧
        SegIs k (BitVec.ofNat 128 d.toNat) x := by
    refine ⟨decodeSeg k (d.setWidth 128), ?_, ?_⟩
    · rw [segShort_of_table hwalk hrange htable hbuf hkind hoff, TableFrame.appendSeg, size_decodeSeg, hk]
    · rw [BitVec.ofNat_toNat]
      exact segIs_decodeSeg k _
  exact ⟨hrow rfl, hrow rfl, hrow rfl⟩

/-- Settles O39: the upper half is the second 8 bytes of the slot. -/
theorem longSlotsMoveTheCursorBy16 : Obligations.LongSlotsMoveTheCursorBy16 := by
  intro s t buf d hwalk hrange htable hbuf hkind hoff
  have hrow {k : SegKind} (hk : k.size = 16) :
      (t.off + 16 ≤ t.bytes → ∃ x,
        segLong k d s = .next { s with table := some { t with off := t.off + 16, segs := t.segs ++ [x] } } ∧
          SegIs k (BitVec.ofNat 128 (d.toNat + 2 ^ 64 * le ((buf.drop (t.off + 8)).take 8))) x) ∧
      (t.bytes < t.off + 16 →
        segLong k d s = .next (s.raise (.truncatedDescriptor (BitVec.ofNat 16 t.off)))) := by
    rw [segLong_of_table hwalk hrange htable hbuf hkind hoff]
    refine ⟨fun hfits => ⟨_, congrArg _ ((if_neg (by omega)).trans ?_), segIs_decodeSeg k _⟩,
      fun htruncated => congrArg _ (if_pos (by omega))⟩
    rw [append_slotValue_high, TableFrame.appendSeg, size_decodeSeg, hk]
  exact ⟨hrow rfl, hrow rfl, hrow rfl, hrow rfl⟩

/-- Settles O40: each of the eleven rows is the one rule. -/
theorem unsupportedSlotsEndTheCommand : Obligations.UnsupportedSlotsEndTheCommand := by
  intro s t buf d hwalk hrange htable hbuf hkind hoff i hi
  have htype : field d 40 4 = BitVec.ofNat 4 (slice d.toNat 43 40) := by
    rw [← toNat_field_eq_slice d (n := 4) (by decide) (by decide), BitVec.ofNat_toNat, BitVec.setWidth_eq]
  have hrow := segUnsupported_of_table hwalk hrange htable hbuf hkind hoff d
  rw [htype] at hrow
  simp only [List.mem_cons, List.not_mem_nil, or_false] at hi
  obtain rfl | rfl | rfl | rfl | rfl | rfl | rfl | rfl | rfl | rfl | rfl := hi <;> exact hrow

/-- Settles O41. -/
theorem gateSlotsMoveTheCursorBy16 : Obligations.GateSlotsMoveTheCursorBy16 :=
  fun _ _ _ q hwalk hrange htable hbuf hkind hoff =>
    ⟨decodeGate q, State.inSlot_of_table _ hwalk hrange htable hbuf hkind hoff, gateIs_decodeGate q⟩

end Sys2Proof.Certificates

/-!
Whole commands (spec/42_linear_read.md R500, R505, R506, 43_segment_descriptors.md R570): the data read of a chunk, a READ all
of whose bytes translate, and the decoding of a GDT.
-/

namespace Sys2Proof.Machine

open Sys2Proof.Safety

/-! ### After a data read -/

theorem sub_ofNat_ne_zero {a : Word} {n : Nat} (h : n < a.toNat) : a - BitVec.ofNat 64 n ≠ 0 := by
  rw [BitVec.toNat_ne, toNat_sub_ofNat h.le]
  exact (Nat.sub_pos_of_lt h).ne'

theorem sub_ofNat_eq_zero {a : Word} {n : Nat} (h : a.toNat = n) : a - BitVec.ofNat 64 n = 0 := by
  rw [← BitVec.toNat_inj, toNat_sub_ofNat h.ge, h, Nat.sub_self]
  rfl

section AfterDataRead

variable {s : State} (r : RangeFrame) {c : CopyState} {n : Nat} (v : Word)

theorem State.afterDataRead_of_lt (h : n < c.chunkLeft.toNat) :
    s.afterDataRead r c n v = State.sampleAbort { s with range := some (r.take c n v).1 } :=
  if_neg (sub_ofNat_ne_zero h)

theorem State.afterDataRead_of_eq (h : c.chunkLeft.toNat = n) :
    s.afterDataRead r c n v = s.rangeLoop
      { r with cur := r.cur + c.chunk, remaining := r.remaining - c.chunk, out := r.out ++ bytesLE v.toNat n
               copy := none } true :=
  if_pos (sub_ofNat_eq_zero h)

end AfterDataRead

theorem State.rangeLoop_afterRead_of_acceptsVa {s : State} {r : RangeFrame} (h : r.remaining ≠ 0)
    (haccepts : s.acceptsVa r.cur = true) :
    s.rangeLoop r true =
      State.sampleAbort { s with range := some r, walk := some (firstWalkFrame r.root r.cur) } :=
  (if_neg h).trans (if_pos haccepts)

theorem State.decoding_of_walk_none {s : State} (h : s.walk = none) (t : TableFrame) :
    s.decoding t = { s with range := none, table := some t } := by
  rw [State.decoding, ← h]

/-! ### The starts of READ and GDT -/

section Start

variable {s : State} {root va base length : Word} {limit : BitVec 16}

theorem State.withReadLog_beginRange (log : List ReadEvent) :
    (s.beginRange root va length).withReadLog log = (s.withReadLog log).beginRange root va length :=
  State.withReadLog_rangeLoop _ log _ false

theorem step_of_holds_read (h : Holds s (.read root va length)) : step s = .next (s.beginRange root va length) := by
  obtain ⟨hidle, w, hcmd, hdecode⟩ := h
  rw [step_of_command hidle hcmd, hdecode]
  exact exec_read_of_idle hidle root va length

theorem step_of_holds_gdt (h : Holds s (.gdt root base limit)) : step s = .next (s.beginTable .gdt root base limit) := by
  obtain ⟨hidle, w, hcmd, hdecode⟩ := h
  rw [step_of_command hidle hcmd, hdecode]
  exact exec_gdt_of_idle hidle root base limit

theorem loggedStep_read (h : Holds s (.read root va length)) : LoggedStep s (s.beginRange root va length) := by
  intro log
  refine ⟨[], ?_⟩
  rw [List.append_nil, State.withReadLog_beginRange]
  exact step_of_holds_read (by exact h)

theorem loggedStep_gdt (h : Holds s (.gdt root base limit)) : LoggedStep s (s.beginTable .gdt root base limit) := by
  intro log
  refine ⟨[], ?_⟩
  rw [List.append_nil, State.withReadLog_beginTable]
  exact step_of_holds_gdt (by exact h)

end Start

/-! ### The GDT -/

section GdtLoop

variable {bytes n off : Nat} {buf : List Byte} {ds : List SegDesc}

theorem gdtLoop_of_end (h : bytes - off < 8) : gdtLoop bytes buf n off ds = .ok ds := by
  cases n with
  | zero => rfl
  | succ n => exact if_pos h

variable (hslot : ¬ bytes - off < 8)
include hslot

theorem gdtLoop_of_unsupported (h : classify (field (slotValue buf off) 0 64) = none) :
    gdtLoop bytes buf (n + 1) off ds =
      .error (.unsupportedDescriptor (field (field (slotValue buf off) 0 64) 40 4) (BitVec.ofNat 16 off)) := by
  simp only [gdtLoop, if_neg hslot, h]

variable {k : SegKind} (h : classify (field (slotValue buf off) 0 64) = some k)
include h

theorem gdtLoop_of_truncated (hleft : bytes - off < k.size) :
    gdtLoop bytes buf (n + 1) off ds = .error (.truncatedDescriptor (BitVec.ofNat 16 off)) := by
  simp only [gdtLoop, if_neg hslot, h, if_pos hleft]

theorem gdtLoop_of_kind (hleft : ¬ bytes - off < k.size) :
    gdtLoop bytes buf (n + 1) off ds =
      gdtLoop bytes buf n (off + k.size) (ds ++ [decodeSeg k (slotValue buf off)]) := by
  simp only [gdtLoop, if_neg hslot, h, if_neg hleft]

end GdtLoop

/-- From the cursor on, the machine's steps end the command with the outcome of the loop, given fuel for the slots left. -/
theorem runsTo_gdt {s : State} {t : TableFrame} {buf : List Byte} (hwalk : s.walk = none) (hrange : s.range = none)
    (htable : s.table = some t) (hbuf : t.buf = some buf) (hkind : t.kind = .gdt) {n : Nat}
    (hn : (t.bytes - t.off) / 8 ≤ n) :
    ∃ m, RunsTo m s (answered s (responseOf .segments (gdtLoop t.bytes buf n t.off t.segs))) := by
  induction n generalizing s t with
  | zero =>
    rw [gdtLoop_of_end (by omega)]
    exact ⟨1, runsTo_succ_iff.mpr ⟨_, step_gdt_end hwalk hrange htable hbuf hkind (by omega), runsTo_zero _⟩⟩
  | succ n ih =>
    by_cases hslot : t.bytes - t.off < 8
    · rw [gdtLoop_of_end hslot]
      exact ⟨1, runsTo_succ_iff.mpr ⟨_, step_gdt_end hwalk hrange htable hbuf hkind hslot, runsTo_zero _⟩⟩
    · have hstep := step_gdt_slot hwalk hrange htable hbuf hkind (by omega)
      cases hclass : classify (field (slotValue buf t.off) 0 64) with
      | none =>
        rw [visitSlot_of_unsupported s hclass] at hstep
        rw [gdtLoop_of_unsupported hslot hclass]
        exact ⟨1, runsTo_succ_iff.mpr ⟨_, hstep, runsTo_zero _⟩⟩
      | some k =>
        by_cases hleft : t.bytes - t.off < k.size
        · rw [visitSlot_of_truncated s hclass hleft] at hstep
          rw [gdtLoop_of_truncated hslot hclass hleft]
          exact ⟨1, runsTo_succ_iff.mpr ⟨_, hstep, runsTo_zero _⟩⟩
        · rw [visitSlot_of_kind s hclass hleft] at hstep
          rw [gdtLoop_of_kind hslot hclass hleft]
          have hsize := k.le_size
          have hoff : (t.appendSeg (decodeSeg k (slotValue buf t.off))).off = t.off + k.size := by
            simp [TableFrame.appendSeg]
          obtain ⟨m, hrest⟩ := ih
            (s := { s with table := some (t.appendSeg (decodeSeg k (slotValue buf t.off))) }) hwalk hrange rfl
            hbuf hkind (by rw [hoff]; change (t.bytes - _) / 8 ≤ n; omega)
          rw [hoff] at hrest
          exact ⟨m + 1, runsTo_succ_iff.mpr ⟨_, hstep, hrest⟩⟩

/-- From a table just read, the steps end the command with the outcome of the procedure over its bytes (R570). -/
theorem runsTo_gdtProcedure {s : State} {t : TableFrame} {buf : List Byte} (hwalk : s.walk = none)
    (hrange : s.range = none) (htable : s.table = some t) (hbuf : t.buf = some buf) (hkind : t.kind = .gdt)
    (hlength : buf.length = t.bytes) (hoff : t.off = 0) (hsegs : t.segs = []) :
    ∃ m, RunsTo m s (answered s (responseOf .segments (gdtProcedure buf))) := by
  have hrun := runsTo_gdt hwalk hrange htable hbuf hkind (n := buf.length / 8) (by rw [hoff, hlength, Nat.sub_zero])
  rwa [hoff, hsegs, ← hlength] at hrun

end Sys2Proof.Machine

namespace Sys2Proof.Certificates

open Sys2Proof.Machine Sys2Proof.Safety

/-- Settles O29: the chunk goes on (`State.afterDataRead_of_lt`), or the loop over pages does (`State.afterDataRead_of_eq`). -/
theorem dataReadAddsItsBytes : Obligations.DataReadAddsItsBytes := by
  intro s r c v rest hwalk hrange hcopy hleft n hanswer haborts s' out cur remaining
  have hstep : step s = .next (s'.afterDataRead r c n.bytes v) := step_copy_answered hwalk hrange hcopy hleft hanswer
  refine ⟨fun hmore => ?_, fun hdone hzero htable => ?_, fun hdone hzero t htable => ?_, fun hdone hne haccepts => ?_,
    fun hdone hne haccepts => ?_⟩
  · rw [State.afterDataRead_of_lt r v hmore, State.sampleAbort_of_aborts_nil (by exact haborts)] at hstep
    exact hstep
  · rw [State.afterDataRead_of_eq r v hdone, State.rangeLoop_of_remaining_eq_zero (by exact hzero),
      State.endRange_of_table_none (by exact htable)] at hstep
    exact hstep
  · rw [State.afterDataRead_of_eq r v hdone, State.rangeLoop_of_remaining_eq_zero (by exact hzero),
      State.endRange_of_table_some (by exact htable), State.decoding_of_walk_none (by exact hwalk)] at hstep
    exact hstep
  · rw [State.afterDataRead_of_eq r v hdone, State.rangeLoop_of_not_acceptsVa (by exact hne) (by exact haccepts)] at hstep
    exact hstep
  · rw [State.afterDataRead_of_eq r v hdone, State.rangeLoop_afterRead_of_acceptsVa (by exact hne) (by exact haccepts),
      State.sampleAbort_of_aborts_nil (by exact haborts)] at hstep
    exact hstep

/-- Settles O31: page by page the request is read (`loggedRun_range`), and outside a table its bytes are the response. -/
theorem readReturnsTheTranslatedBytes : Obligations.ReadReturnsTheTranslatedBytes := by
  intro s root va length _ hholds hundisturbed hinaccessible htranslate
  obtain ⟨bs, hbytes, hread⟩ := loggedRun_range hundisturbed hinaccessible
    { root := root, cur := va, remaining := length, out := [], copy := none } htranslate
  obtain ⟨-, -, htable⟩ := s.phase_idle_iff.mp hholds.1
  rw [State.endRange_of_table_none htable] at hread
  obtain ⟨n, events, hrun⟩ := LoggedRun.runsTo (.head (loggedStep_read hholds) hread) s.readLog
  exact ⟨n, events, bs, hbytes, hrun⟩

/-- Settles O42: from the table the loop's slots (`runsTo_gdt`); before it, in the whole command, the READ of its bytes
(`loggedRun_beginTable`). -/
theorem gdtDecodesItsWholeTable : Obligations.GdtDecodesItsWholeTable := by
  refine ⟨fun s t buf => runsTo_gdtProcedure, ?_⟩
  intro s root base limit _ hholds hundisturbed hinaccessible htranslate
  obtain ⟨buf, hbytes, hread⟩ := loggedRun_beginTable hundisturbed hinaccessible .gdt htranslate
  obtain ⟨m, events, hrun⟩ := LoggedRun.runsTo (.head (loggedStep_gdt hholds) hread) s.readLog
  obtain ⟨n, hdecode⟩ := runsTo_gdtProcedure
    (s := (s.decoding { firstTableFrame .gdt root base limit with buf := some buf }).withReadLog (s.readLog ++ events))
    rfl rfl rfl rfl rfl hbytes.1 rfl rfl
  exact ⟨_, events, buf, hbytes, runsTo_trans hrun hdecode⟩

end Sys2Proof.Certificates

/-!
Reads counted (spec/41_translation.md R430, R431, 42_linear_read.md R502, R505): a whole RESOLVE, one 8-byte read for each level,
and the reads of a chunk, head, body and tail.
-/

namespace Sys2Proof.Machine

open Sys2Proof.Safety

/-! ### RESOLVE -/

theorem walkLoop_of_error {s : State} {sp : AddressSplit} {n : Nat} {L : Level} {t : Word} {es : List Entry} {e : ErrInfo}
    (h : imageEntry s (entryAddress t (levelIndex sp L)) = .error e) : walkLoop s sp (n + 1) L t es = .error e := by
  rw [walkLoop, h]
  rfl

theorem afterRead_of_answers_nil {s : State} (h : s.answers = []) (a : Word) (n : ReadSize) (answer : Option Word) :
    afterRead s a n answer [] = s.withReadLog (s.readLog ++ [{ addr := a, size := n, answer := answer }]) := by
  rw [afterRead, ← h]
  rfl

theorem imageAnswer_ne_never (m : Memory) (inaccessible : List Nat) (a : Word) (n : ReadSize) :
    imageAnswer m inaccessible a n ≠ .never := by
  unfold imageAnswer
  split <;> simp

theorem imageAnswer_of_imageEntry_error {s : State} {a : Word} {e : ErrInfo} (h : imageEntry s a = .error e) :
    imageAnswer s.mem s.inaccessible a .b8 = .fail ∧ e = .hostReadFailure a := by
  cases hanswer : imageAnswer s.mem s.inaccessible a .b8 with
  | never => exact absurd hanswer (imageAnswer_ne_never _ _ _ _)
  | value v =>
    rw [imageEntry, hanswer] at h
    cases h
  | fail =>
    rw [imageEntry, hanswer] at h
    cases h
    exact ⟨rfl, rfl⟩

theorem nextRead_of_walk {s : State} {f : WalkFrame} (h : s.walk = some f) :
    nextRead s = some (entryAddress f.tableBase (levelIndex f.split f.level), .b8) := by
  rw [nextRead, h]

theorem nextRead_of_copy {s : State} {r : RangeFrame} {c : CopyState} (hwalk : s.walk = none) (hrange : s.range = some r)
    (hcopy : r.copy = some c) (hleft : c.chunkLeft ≠ 0) : nextRead s = some (c.pa, dataReadSize c.pa c.chunkLeft) := by
  simp only [nextRead, hwalk, hrange, hcopy, if_neg hleft]

section EntryRead

variable {s : State} {f : WalkFrame} (hanswers : s.answers = []) (hwalk : s.walk = some f)
include hanswers hwalk

/-- The walker's step with an entry that the image answers is one 8-byte read and the loop's body. -/
theorem step_walk_of_imageEntry_ok {raw : Word}
    (h : imageEntry s (entryAddress f.tableBase (levelIndex f.split f.level)) = .ok raw) :
    ∃ event : ReadEvent, event.size = .b8 ∧
      step s = .next (visitEntry (s.withReadLog (s.readLog ++ [event])) f raw) := by
  have hanswer := step_walk_answered (rest := []) hwalk (by rw [readerAnswer, hanswers, imageAnswer_of_imageEntry h])
  rw [afterRead_of_answers_nil hanswers] at hanswer
  exact ⟨_, rfl, hanswer⟩

/-- The walker's step with an entry at an inaccessible address is one 8-byte read, and the command fails. -/
theorem step_walk_of_imageEntry_error {e : ErrInfo}
    (h : imageEntry s (entryAddress f.tableBase (levelIndex f.split f.level)) = .error e) :
    ∃ event : ReadEvent, event.size = .b8 ∧ step s = .next ((s.withReadLog (s.readLog ++ [event])).raise e) := by
  obtain ⟨hanswer, rfl⟩ := imageAnswer_of_imageEntry_error h
  have hstep := step_failed (rest := []) (nextRead_of_walk hwalk) (by rw [readerAnswer, hanswers, hanswer])
  rw [afterRead_of_answers_nil hanswers] at hstep
  exact ⟨_, rfl, hstep⟩

end EntryRead

/-- Undisturbed and outside a READ, a walk at a level of at most `n` ends after at most `n` steps, one 8-byte read each, with
the outcome of the procedure's loop. -/
theorem runsTo_walk {s : State} (hs : Undisturbed s) (hrange : s.range = none) {n : Nat} {f : WalkFrame}
    (hn : f.level.toNat ≤ n) (log : List ReadEvent) :
    ∃ events, events.length ≤ n ∧ (∀ e ∈ events, e.size = ReadSize.b8) ∧
      RunsTo events.length (State.withReadLog { s with walk := some f } log)
        (answered (s.withReadLog (log ++ events))
          (responseOf .translation (walkLoop s f.split n f.level f.tableBase f.entries))) := by
  have ⟨hanswers, haborts⟩ := hs
  induction n generalizing f log with
  | zero => exact absurd f.level.toNat_pos (by omega)
  | succ n ih =>
    obtain ⟨u, hu⟩ : ∃ u, u = State.withReadLog { s with walk := some f } log := ⟨_, rfl⟩
    have hlast {event : ReadEvent} {r : Response} (hsize : event.size = .b8)
        (hstep : step u = .next (answered (s.withReadLog (log ++ [event])) r)) :
        ∃ events, events.length ≤ n + 1 ∧ (∀ e ∈ events, e.size = ReadSize.b8) ∧
          RunsTo events.length u (answered (s.withReadLog (log ++ events)) r) :=
      ⟨[event], Nat.le_add_left 1 n, by simpa using hsize, runsTo_succ_iff.mpr ⟨_, hstep, runsTo_zero _⟩⟩
    rw [← hu]
    cases hraw : imageEntry s (entryAddress f.tableBase (levelIndex f.split f.level)) with
    | error e =>
      obtain ⟨event, hsize, hstep⟩ := step_walk_of_imageEntry_error (s := u) (f := f) (by rw [hu]; exact hanswers)
        (by rw [hu]; rfl) (by rw [hu]; exact hraw)
      rw [walkLoop_of_error hraw]
      exact hlast hsize (by rw [hstep, hu]; rfl)
    | ok raw =>
      obtain ⟨event, hsize, hstep⟩ := step_walk_of_imageEntry_ok (s := u) (f := f) (by rw [hu]; exact hanswers)
        (by rw [hu]; rfl) (by rw [hu]; exact hraw)
      cases hp : raw.getLsbD 0 with
      | false =>
        rw [visitEntry_of_not_present hp, State.endWalk_of_range_none (by rw [hu]; exact hrange)] at hstep
        rw [walkLoop_of_not_present hraw hp]
        exact hlast hsize (by rw [hstep, hu]; rfl)
      | true =>
        cases hf : form f.level raw with
        | leaf =>
          rw [visitEntry_of_leaf hp hf, State.endWalk_of_range_none (by rw [hu]; exact hrange)] at hstep
          rw [walkLoop_of_leaf hraw hp hf]
          exact hlast hsize (by rw [hstep, hu]; rfl)
        | table =>
          have hbelow := toNat_below (ne_l1_of_form_table hf)
          rw [visitEntry_of_table hp hf, State.sampleAbort_of_aborts_nil (by rw [hu]; exact haborts), hu] at hstep
          rw [walkLoop_of_table hraw hp hf, hu]
          obtain ⟨events, hlength, hsizes, hrun⟩ := ih (f := f.descend s.m raw)
            (by simp only [WalkFrame.descend]; omega) (log ++ [event])
          rw [List.append_assoc] at hrun
          exact ⟨event :: events, Nat.succ_le_succ hlength, by simpa using ⟨hsize, hsizes⟩,
            runsTo_succ_iff.mpr ⟨_, hstep, hrun⟩⟩

theorem step_of_holds_resolve {s : State} {root va : Word} (h : Holds s (.resolve root va)) :
    step s = .next (s.beginWalk root va) := by
  obtain ⟨hidle, w, hcmd, hdecode⟩ := h
  rw [step_of_command hidle hcmd, hdecode]
  exact exec_resolve_of_idle hidle root va

/-! ### The sizes of a chunk's reads -/

section ChunkReads

variable {p n : Nat}

theorem chunkReads_congr {q : Nat} (h : p % 8 = q % 8) : chunkReads p n = chunkReads q n := by
  rw [chunkReads, chunkReads, h]

theorem chunkReads_zero : chunkReads p 0 = [] := by
  simp [chunkReads]

/-- At a multiple of 8 with 8 bytes left the body begins, or goes on. -/
theorem chunkReads_of_eight (hp : p % 8 = 0) (hn : 8 ≤ n) : chunkReads p n = .b8 :: chunkReads (p + 8) (n - 8) := by
  have hbody : n / 8 = (n - 8) / 8 + 1 := by omega
  have htail : n % 8 = (n - 8) % 8 := by omega
  simp [chunkReads, hp, hbody, htail, List.replicate_succ]

/-- Elsewhere the next byte is one of the head, or of the tail where that is all that is left. -/
theorem chunkReads_of_one (hn : n ≠ 0) (h : ¬ (p % 8 = 0 ∧ 8 ≤ n)) :
    chunkReads p n = .b1 :: chunkReads (p + 1) (n - 1) := by
  by_cases hp : p % 8 = 0
  · have hhead : min n ((8 - p % 8) % 8) = 0 := by omega
    have hhead' : min (n - 1) ((8 - (p + 1) % 8) % 8) = n - 1 := by omega
    have hbody : n / 8 = 0 := by omega
    have htail : n % 8 = n - 1 + 1 := by omega
    simp [chunkReads, hhead, hhead', hbody, htail, List.replicate_succ]
  · have hhead : min n ((8 - p % 8) % 8) = min (n - 1) ((8 - (p + 1) % 8) % 8) + 1 := by omega
    have hrest : n - (min (n - 1) ((8 - (p + 1) % 8) % 8) + 1) = n - 1 - min (n - 1) ((8 - (p + 1) % 8) % 8) := by omega
    simp [chunkReads, hhead, hrest, List.replicate_succ]

end ChunkReads

theorem readPlan_zero (n : Nat) (p : Word) : readPlan n p 0 = [] := by
  cases n <;> rfl

theorem readPlan_succ {left : Word} (h : left ≠ 0) (n : Nat) (p : Word) :
    readPlan (n + 1) p left = dataReadSize p left ::
      readPlan n (p + BitVec.ofNat 64 (dataReadSize p left).bytes) (left - BitVec.ofNat 64 (dataReadSize p left).bytes) :=
  if_neg h

/-- The sizes of R502, one after another, are its head, body and tail. -/
theorem readPlan_eq_chunkReads {n : Nat} {p left : Word} (hn : left.toNat ≤ n) :
    readPlan n p left = chunkReads p.toNat left.toNat := by
  induction n generalizing p left with
  | zero =>
    rw [Nat.le_zero.mp hn, chunkReads_zero]
    rfl
  | succ n ih =>
    by_cases hleft : left = 0
    · rw [hleft, readPlan_zero]
      exact chunkReads_zero.symm
    · have hmod (k : Nat) : (p + BitVec.ofNat 64 k).toNat % 8 = (p.toNat + k) % 8 := by
        rw [BitVec.toNat_add, BitVec.toNat_ofNat]
        omega
      have hle := bytes_dataReadSize_le (pa := p) hleft
      have hpos := bytes_dataReadSize_pos p left
      have hsub := toNat_sub_ofNat hle
      rw [readPlan_succ hleft, ih (by omega), chunkReads_congr (hmod _), hsub]
      by_cases h : p.toNat % 8 = 0 ∧ 8 ≤ left.toNat
      · rw [dataReadSize, if_pos h, chunkReads_of_eight h.1 h.2]
        rfl
      · rw [dataReadSize, if_neg h, chunkReads_of_one (by omega) h]
        rfl

/-! ### The machine's reads of a chunk -/

theorem State.sampleAbort_of_not_mem {s : State} (h : true ∉ s.aborts) :
    ∃ as, true ∉ as ∧ s.sampleAbort = s.withAborts as := by
  unfold State.sampleAbort
  split
  · next haborts =>
    rw [haborts] at h
    exact ⟨s.aborts, by rwa [haborts], rfl⟩
  · next rest haborts =>
    rw [haborts] at h
    exact ⟨rest, fun hmem => h (List.mem_cons_of_mem _ hmem), rfl⟩
  · next rest haborts => simp [haborts] at h

theorem State.readLog_rangeLoop (s : State) (r : RangeFrame) (afterRead : Bool) :
    (s.rangeLoop r afterRead).readLog = s.readLog :=
  (congrArg State.readLog (s.withReadLog_rangeLoop s.readLog r afterRead)).symm

/-- A reader that fails no call and leaves none unanswered gives a value and stays such a reader. -/
theorem exists_value_of_readerAnswer {s : State} (hinaccessible : s.inaccessible = [])
    (hanswers : ∀ x ∈ s.answers, ∃ v, x = .value v) (a : Word) (n : ReadSize) :
    ∃ v rest, readerAnswer s a n = (.value v, rest) ∧ ∀ x ∈ rest, ∃ v, x = ReaderAnswer.value v := by
  obtain ⟨-, h⟩ | ⟨v, rest, hs, h⟩ | ⟨rest, hs, -⟩ | ⟨rest, hs, -⟩ := readerAnswer_cases s a n
  · rw [hinaccessible] at h
    exact ⟨_, [], h, by simp⟩
  · exact ⟨_, rest, h, fun x hx => hanswers x (by simp [hs, hx])⟩
  · simpa using hanswers .fail (by simp [hs])
  · simpa using hanswers .never (by simp [hs])

/-- From a state that copies a chunk, one step for each of its reads, in address order and without a gap. -/
theorem runsTo_copy {n : Nat} {s : State} {r : RangeFrame} {c : CopyState} (hwalk : s.walk = none)
    (hrange : s.range = some r) (hcopy : r.copy = some c) (hn : c.chunkLeft.toNat ≤ n)
    (hend : c.pa.toNat + c.chunkLeft.toNat ≤ 2 ^ 64) (hinaccessible : s.inaccessible = [])
    (hanswers : ∀ x ∈ s.answers, ∃ v, x = .value v) (haborts : true ∉ s.aborts) :
    ∃ t events, RunsTo events.length s t ∧ t.readLog = s.readLog ++ events ∧
      events.map ReadEvent.size = readPlan n c.pa c.chunkLeft ∧
      ∀ i e, events[i]? = some e → e.addr.toNat = c.pa.toNat + ((events.take i).map fun x => x.size.bytes).sum := by
  induction n generalizing s r c with
  | zero => exact ⟨s, [], runsTo_zero s, by simp, rfl, by simp⟩
  | succ n ih =>
    by_cases hleft : c.chunkLeft = 0
    · exact ⟨s, [], runsTo_zero s, by simp, by rw [hleft]; rfl, by simp⟩
    rw [readPlan_succ hleft]
    obtain ⟨v, rest, hanswer, hrest⟩ := exists_value_of_readerAnswer hinaccessible hanswers c.pa (dataReadSize c.pa c.chunkLeft)
    have hstep := step_copy_answered hwalk hrange hcopy hleft hanswer
    have hle := bytes_dataReadSize_le (pa := c.pa) hleft
    have hpos := bytes_dataReadSize_pos c.pa c.chunkLeft
    have hsub := toNat_sub_ofNat hle
    generalize dataReadSize c.pa c.chunkLeft = k at *
    by_cases hdone : c.chunkLeft.toNat = k.bytes
    · rw [State.afterDataRead_of_eq r v hdone] at hstep
      refine ⟨_, [{ addr := c.pa, size := k, answer := some v }], runsTo_succ_iff.mpr ⟨_, hstep, runsTo_zero _⟩,
        State.readLog_rangeLoop _ _ _, by rw [sub_ofNat_eq_zero hdone, readPlan_zero]; rfl, fun i e he => ?_⟩
      cases i with
      | zero =>
        cases he
        rfl
      | succ i => cases he
    · have hlt : k.bytes < c.chunkLeft.toNat := by omega
      have hadd : (c.pa + BitVec.ofNat 64 k.bytes).toNat = c.pa.toNat + k.bytes := by
        rw [BitVec.toNat_add, BitVec.toNat_ofNat, Nat.add_mod_mod, Nat.mod_eq_of_lt (by omega)]
      obtain ⟨as, has, hsample⟩ := State.sampleAbort_of_not_mem
        (s := { afterRead s c.pa k (some v) rest with range := some (r.take c k.bytes v).1 }) haborts
      rw [State.afterDataRead_of_lt r v hlt, hsample] at hstep
      obtain ⟨t, events, hrun, hlog, hsizes, haddrs⟩ := ih
        (s := State.withAborts { afterRead s c.pa k (some v) rest with range := some (r.take c k.bytes v).1 } as)
        (c := (r.take c k.bytes v).2) hwalk rfl rfl (by rw [RangeFrame.take, hsub]; omega)
        (by rw [RangeFrame.take, hadd, hsub]; omega) hinaccessible hrest has
      refine ⟨t, { addr := c.pa, size := k, answer := some v } :: events, runsTo_succ_iff.mpr ⟨_, hstep, hrun⟩, ?_,
        congrArg (k :: ·) hsizes, fun i e he => ?_⟩
      · rw [hlog, List.append_cons]
        rfl
      · cases i with
        | zero =>
          cases he
          rfl
        | succ i =>
          rw [haddrs i e he, RangeFrame.take, hadd, List.take_succ_cons, List.map_cons, List.sum_cons, Nat.add_assoc]

end Sys2Proof.Machine

namespace Sys2Proof.Certificates

open Sys2Proof.Machine Sys2Proof.Safety

/-- Settles O27: one step starts the walk, or fails the width check; the walk takes one for each level (`runsTo_walk`). -/
theorem resolveCarriesOutItsProcedure : Obligations.ResolveCarriesOutItsProcedure := by
  intro s root va hholds hundisturbed
  obtain ⟨-, hrange, -⟩ := s.phase_idle_iff.mp hholds.1
  have hstep := step_of_holds_resolve hholds
  by_cases haccepts : s.acceptsVa va = true
  · rw [State.beginWalk_of_acceptsVa haccepts] at hstep
    obtain ⟨events, hlength, hsizes, hrun⟩ := runsTo_walk hundisturbed hrange (n := 4) (f := firstWalkFrame root va) le_rfl
      s.readLog
    rw [resolveProcedure, if_pos haccepts]
    exact ⟨events.length + 1, events, by omega, hlength, hsizes, runsTo_succ_iff.mpr ⟨_, hstep, hrun⟩⟩
  · rw [State.beginWalk_of_not_acceptsVa haccepts] at hstep
    rw [resolveProcedure, if_neg haccepts]
    refine ⟨1, [], by decide, by decide, by simp, runsTo_succ_iff.mpr ⟨_, hstep, ?_⟩⟩
    rw [List.append_nil]
    exact runsTo_zero _

/-- Settles O30: the sizes are arithmetic (`readPlan_eq_chunkReads`), and the machine issues them (`runsTo_copy`). -/
theorem chunkIsReadHeadBodyTail : Obligations.ChunkIsReadHeadBodyTail := by
  refine ⟨fun p n _ => readPlan_eq_chunkReads le_rfl, ?_⟩
  intro s r c hwalk hrange hcopy hend hinaccessible hanswers haborts
  obtain ⟨t, events, hrun, hlog, hsizes, haddrs⟩ :=
    runsTo_copy hwalk hrange hcopy le_rfl hend hinaccessible hanswers haborts
  rw [readPlan_eq_chunkReads le_rfl] at hsizes
  exact ⟨t, events, hrun, hlog, hsizes, haddrs⟩

end Sys2Proof.Certificates

/-!
A range with a byte that does not translate (spec/42_linear_read.md R500, R503, R504, 60_exceptions.md R711): the pages before it
are read, and its own page ends the command. A page translates whole or not at all, so that byte is where its page's
iteration begins.
-/

namespace Sys2Proof.Machine

open Sys2Proof.Safety

/-! ### The walk over an accessible image -/

theorem exists_imageEntry_ok {s : State} (h : s.inaccessible = []) (a : Word) : ∃ raw, imageEntry s a = .ok raw := by
  obtain ⟨v, hv⟩ := exists_imageAnswer s.mem a .b8
  refine ⟨v, ?_⟩
  rw [imageEntry, h, hv]

/-- With every address accessible a walk fails nowhere: it maps its address, or finds it unmapped. -/
theorem exists_walkLoop_ok {s : State} (h : s.inaccessible = []) (sp : AddressSplit) (n : Nat) (L : Level) (t : Word)
    (es : List Entry) : ∃ x, walkLoop s sp n L t es = .ok x := by
  induction n generalizing L t es with
  | zero => exact ⟨_, rfl⟩
  | succ n ih =>
    obtain ⟨raw, hraw⟩ := exists_imageEntry_ok h (entryAddress t (levelIndex sp L))
    cases hp : raw.getLsbD 0 with
    | false => exact ⟨_, walkLoop_of_not_present hraw hp⟩
    | true =>
      cases hf : form L raw with
      | leaf => exact ⟨_, walkLoop_of_leaf hraw hp hf⟩
      | table =>
        rw [walkLoop_of_table hraw hp hf]
        exact ih _ _ _

/-- Why an address does not translate, every address being accessible: the width check, or a walk that ends unmapped. -/
theorem physicalAddress_error_cases {s : State} (hinaccessible : s.inaccessible = []) {root va : Word} {e : ErrInfo}
    (h : physicalAddress s root va = .error e) :
    (s.acceptsVa va = false ∧ e = .addressWidthViolation va) ∨
    (s.acceptsVa va = true ∧ e = .unmappedRange va ∧
      ∃ x, walkLoop s (splitAddress va) 4 .l4 root [] = .ok x ∧ (x.pageBase = none ∨ x.pageOffset = none)) := by
  unfold physicalAddress resolveProcedure at h
  cases haccepts : s.acceptsVa va with
  | false =>
    rw [haccepts] at h
    cases h
    exact .inl ⟨rfl, rfl⟩
  | true =>
    obtain ⟨x, hloop⟩ := exists_walkLoop_ok hinaccessible (splitAddress va) 4 .l4 root []
    rw [haccepts, if_pos rfl, hloop] at h
    refine .inr ⟨rfl, ?_⟩
    cases hbase : x.pageBase with
    | none =>
      simp only [bind, Except.bind, hbase] at h
      exact ⟨(Except.error.inj h).symm, x, hloop, .inl hbase⟩
    | some base =>
      cases hoffset : x.pageOffset with
      | none =>
        simp only [bind, Except.bind, hbase, hoffset] at h
        exact ⟨(Except.error.inj h).symm, x, hloop, .inr hoffset⟩
      | some offset =>
        simp only [bind, Except.bind, hbase, hoffset] at h
        cases h

/-! ### Pages -/

/-- The width check looks at bits above every page. -/
theorem State.acceptsVa_congr {s : State} (hconfig : ConfigLegal s) {va va' : Word} {k : Nat} (hk : k ≤ 39)
    (h : va'.toNat / 2 ^ k = va.toNat / 2 ^ k) : s.acceptsVa va' = s.acceptsVa va := by
  have hpage : va'.toNat / 2 ^ 47 = va.toNat / 2 ^ 47 := by
    rw [← Nat.add_sub_cancel' (hk.trans (by decide : 39 ≤ 47)), Nat.pow_add, ← Nat.div_div_eq_div_mul,
      ← Nat.div_div_eq_div_mul, h]
  rw [Bool.eq_iff_iff, State.acceptsVa_iff hconfig.vaBits, State.acceptsVa_iff hconfig.vaBits, hpage]

/-- The rest of the page of an address that translates: its walk maps it, and every address of it translates. -/
theorem exists_page_allTranslate {s : State} (hconfig : ConfigLegal s) {root va pa : Word}
    (h : physicalAddress s root va = .ok pa) :
    ∃ x base k, walkLoop s (splitAddress va) 4 .l4 root [] = .ok x ∧ MapsPage x va base k ∧
      AllTranslate s root va (2 ^ k - va.toNat % 2 ^ k) := by
  obtain ⟨haccepts, x, base, hloop, hbase⟩ := resolve_of_physicalAddress h
  obtain ⟨k, hk, hmaps, hpage⟩ := walkLoop_maps_page hloop hbase
  refine ⟨x, base, k, hloop, hmaps, fun i hi => ?_⟩
  obtain ⟨hdiv, -⟩ := toNat_add_in_page (va := va) hk hi
  obtain ⟨x', hloop', hmaps'⟩ := hpage _ hdiv
  have haccepts' := (State.acceptsVa_congr hconfig hk hdiv).trans haccepts
  exact ⟨_, physicalAddress_of_mapsPage haccepts' hloop' hmaps'⟩

/-! ### The loop over pages -/

section RangeLoop

variable {s : State} (hs : Undisturbed s)
include hs

/-- Undisturbed, the walk of an accepted page ends with the result of the procedure's loop. -/
theorem loggedRun_pageWalk {r : RangeFrame} (hremaining : r.remaining ≠ 0) (haccepts : s.acceptsVa r.cur = true)
    {x : TranslationResult} (hloop : walkLoop s (splitAddress r.cur) 4 .l4 r.root [] = .ok x) :
    LoggedRun (s.rangeLoop r false) (State.endWalk { s with range := some r } x) := by
  obtain ⟨hanswers, haborts⟩ := hs
  rw [State.rangeLoop_of_acceptsVa hremaining haccepts]
  rw [← walkLoop_eq_of_guest_eq (s := s) (t := { s with range := some r }) rfl] at hloop
  exact loggedRun_walk (s := { s with range := some r }) (f := firstWalkFrame r.root r.cur) hanswers haborts hloop le_rfl

/-- Undisturbed, an iteration whose walk maps its page reads the rest of the page, or of the request. -/
theorem loggedRun_mappedPage (hinaccessible : s.inaccessible = []) {r : RangeFrame} (hremaining : r.remaining ≠ 0)
    (haccepts : s.acceptsVa r.cur = true) {x : TranslationResult} {base : Word} {k j : Nat}
    (hloop : walkLoop s (splitAddress r.cur) 4 .l4 r.root [] = .ok x) (hmaps : MapsPage x r.cur base k)
    (hj : j = min (2 ^ k - r.cur.toNat % 2 ^ k) r.remaining.toNat) (hjpos : 0 < j) :
    ∃ out, LoggedRun (s.rangeLoop r false) (s.rangeLoop { r with
      cur := r.cur + BitVec.ofNat 64 j, remaining := r.remaining - BitVec.ofNat 64 j, out := out, copy := none } false) := by
  have hjne : BitVec.ofNat 64 j ≠ 0 := by
    rw [BitVec.toNat_ne, BitVec.toNat_ofNat, Nat.mod_eq_of_lt (by omega)]
    exact hjpos.ne'
  have hwalk := loggedRun_pageWalk hs hremaining haccepts hloop
  rw [State.endWalk_of_mapsPage hs.2 hmaps hj] at hwalk
  exact ⟨_, hwalk.trans (loggedRun_copy hs hinaccessible r _ hjne)⟩

/-- Undisturbed, a READ ends with the error of its first byte that does not translate (R503, R504, R711). -/
theorem loggedRun_firstBadByte (hinaccessible : s.inaccessible = []) (hconfig : ConfigLegal s) {r : RangeFrame} {i : Nat}
    {e : ErrInfo} (hi : i < r.remaining.toNat) (hall : AllTranslate s r.root r.cur i)
    (herror : physicalAddress s r.root (r.cur + BitVec.ofNat 64 i) = .error e) :
    LoggedRun (s.rangeLoop r false) (s.raise e) := by
  induction i using Nat.strong_induction_on generalizing r with
  | _ i ih =>
    have hremaining : r.remaining ≠ 0 := by
      rw [BitVec.toNat_ne]
      exact Nat.ne_zero_of_lt hi
    obtain rfl | hpos := Nat.eq_zero_or_pos i
    · rw [BitVec.add_zero] at herror
      obtain ⟨haccepts, rfl⟩ | ⟨haccepts, rfl, x, hloop, hunmapped⟩ := physicalAddress_error_cases hinaccessible herror
      · rw [State.rangeLoop_of_not_acceptsVa hremaining haccepts]
        exact .refl
      · have hwalk := loggedRun_pageWalk hs hremaining haccepts hloop
        rwa [State.endWalk_of_unmapped rfl (hunmapped.imp_right .inr)] at hwalk
    · obtain ⟨pa, hpa⟩ := hall 0 hpos
      rw [BitVec.add_zero] at hpa
      obtain ⟨x, base, k, hloop, hmaps, hpage⟩ := exists_page_allTranslate hconfig hpa
      have hpageEnd : 2 ^ k - r.cur.toNat % 2 ^ k ≤ i := by
        by_contra hinside
        obtain ⟨pa', hpa'⟩ := hpage i (by omega)
        rw [hpa'] at herror
        cases herror
      have hoffset : r.cur.toNat % 2 ^ k < 2 ^ k := Nat.mod_lt _ (Nat.two_pow_pos k)
      generalize hj : 2 ^ k - r.cur.toNat % 2 ^ k = j at *
      obtain ⟨out, hrun⟩ := loggedRun_mappedPage hs hinaccessible hremaining (resolve_of_physicalAddress hpa).1 hloop hmaps
        (j := j) (by omega) (by omega)
      have hsub := toNat_sub_ofNat (a := r.remaining) (n := j) (by omega)
      have hsplit : i = j + (i - j) := by omega
      rw [hsplit] at hall
      rw [hsplit, BitVec.ofNat_add, ← BitVec.add_assoc] at herror
      exact hrun.trans (ih (i - j) (by omega) (by rw [hsub]; omega) (allTranslate_drop hall) herror)

end RangeLoop

/-- A command that reads a range starts with the loop over its pages, inside the frame of its table if it has one. -/
theorem exists_loggedStep_of_readsRange {s : State} {cmd : Instr} {root va : Word} {n : Nat} (hholds : Holds s cmd)
    (hreads : ReadsRange cmd root va n) :
    ∃ table r, r.root = root ∧ r.cur = va ∧ r.remaining.toNat = n ∧
      LoggedStep s (State.rangeLoop { s with table := table } r false) := by
  obtain ⟨length, rfl, rfl⟩ | ⟨limit, rfl | rfl, rfl⟩ := hreads
  · exact ⟨s.table, _, rfl, rfl, rfl, loggedStep_read hholds⟩
  · exact ⟨_, _, rfl, rfl, toNat_limit_add_one limit, loggedStep_gdt hholds⟩
  · exact ⟨_, _, rfl, rfl, toNat_limit_add_one limit, loggedStep_idt hholds⟩

end Sys2Proof.Machine

namespace Sys2Proof.Certificates

open Sys2Proof.Machine Sys2Proof.Safety

/-- Settles O32: page by page up to the first byte that does not translate (`loggedRun_firstBadByte`). -/
theorem readFailsAtItsFirstBadByte : Obligations.ReadFailsAtItsFirstBadByte := by
  intro s cmd root va length i e hconfig hholds hreads hundisturbed hinaccessible hi hall herror
  refine ⟨?_, ?_⟩
  · obtain ⟨-, he⟩ | ⟨-, he, -⟩ := physicalAddress_error_cases hinaccessible herror
    · exact .inl he
    · exact .inr he
  · obtain ⟨table, r, rfl, rfl, rfl, hstep⟩ := exists_loggedStep_of_readsRange hholds hreads
    have hguest : State.guest { s with table := table } = s.guest := rfl
    rw [← allTranslate_iff_of_guest_eq hguest] at hall
    rw [← physicalAddress_eq_of_guest_eq hguest] at herror
    have hfails := loggedRun_firstBadByte (s := { s with table := table }) hundisturbed hinaccessible
      ⟨hconfig.arch, hconfig.vaBits, hconfig.minM, hconfig.maxM⟩ hi hall herror
    obtain ⟨n, events, hrun⟩ := LoggedRun.runsTo (.head hstep hfails) s.readLog
    exact ⟨n, events, hrun⟩

end Sys2Proof.Certificates

/-!
Every command ends if every read is answered (spec/70_reset_and_hazards.md R820): each answered read brings the innermost frame
nearer to its end, a walk by a level, a chunk by its bytes, a request by its chunks, a table by its slots.
-/

namespace Sys2Proof.Machine

open Sys2Proof.Safety

/-- Some number of steps leads to an idle block with an empty CMD and an outcome. -/
def Ends (s : State) : Prop := ∃ n t, RunsTo n s t ∧ t.phase = .idle ∧ t.cmd = none ∧ ∃ r, t.rsp = some r

/-- The reader leaves no read unanswered. -/
def Answers (s : State) : Prop := ReaderAnswer.never ∉ s.answers

theorem ends_endCommand (s : State) (r : Response) : Ends (s.endCommand r) :=
  ⟨0, _, runsTo_zero _, rfl, rfl, r, rfl⟩

theorem Ends.of_step {s t : State} (h : step s = .next t) (ht : Ends t) : Ends s := by
  obtain ⟨n, u, hrun, hu⟩ := ht
  exact ⟨n + 1, u, runsTo_succ_iff.mpr ⟨t, h, hrun⟩, hu⟩

theorem Ends.of_runsTo {s : State} {n : Nat} {r : Response} (h : RunsTo n s (answered s r)) : Ends s :=
  ⟨n, _, h, rfl, rfl, r, rfl⟩

/-- Where another read may follow, the command ends by the abort input or goes on. -/
theorem ends_sampleAbort {s : State} (h : ∀ as, Ends (s.withAborts as)) : Ends s.sampleAbort := by
  obtain ⟨-, hs⟩ | ⟨rest, -, hs⟩ | ⟨rest, -, hs⟩ := s.sampleAbort_cases <;> rw [hs]
  · exact h s.aborts
  · exact h rest
  · exact ends_endCommand _ _

/-- A read that is answered ends the command, or goes on with its value and a reader that answers. -/
theorem ends_of_nextRead {s : State} (hanswers : Answers s) {a : Word} {n : ReadSize} (h : nextRead s = some (a, n))
    (hvalue : ∀ v rest, ReaderAnswer.never ∉ rest → readerAnswer s a n = (.value v, rest) → Ends s) : Ends s := by
  have hfail {rest : List ReaderAnswer} (hanswer : readerAnswer s a n = (.fail, rest)) : Ends s :=
    .of_step (step_failed h hanswer) (ends_endCommand _ _)
  obtain ⟨-, himage⟩ | ⟨v, rest, hs, hanswer⟩ | ⟨rest, -, hanswer⟩ | ⟨rest, hs, -⟩ := readerAnswer_cases s a n
  · cases hanswer : imageAnswer s.mem s.inaccessible a n with
    | never => exact absurd hanswer (imageAnswer_ne_never _ _ _ _)
    | value v => exact hvalue v [] (by simp) (by rw [himage, hanswer])
    | fail => exact hfail (by rw [himage, hanswer])
  · exact hvalue _ rest (fun hmem => hanswers (by simp [hs, hmem])) hanswer
  · exact hfail hanswer
  · exact absurd (by simp [hs]) hanswers

/-! ### Tables -/

/-- A table that has been read is decoded to its end. -/
theorem ends_of_table {s : State} {t : TableFrame} {buf : List Byte} (hwalk : s.walk = none) (hrange : s.range = none)
    (htable : s.table = some t) (hbuf : t.buf = some buf) : Ends s := by
  cases hkind : t.kind with
  | gdt =>
    obtain ⟨n, hrun⟩ := runsTo_gdt hwalk hrange htable hbuf hkind le_rfl
    exact .of_runsTo hrun
  | idt => exact .of_runsTo (runsTo_idt hwalk hrange htable hbuf hkind rfl)

theorem ends_endRange (s : State) (out : List Byte) : Ends (s.endRange out) := by
  cases htable : s.table with
  | none =>
    rw [State.endRange_of_table_none htable]
    exact ends_endCommand _ _
  | some t =>
    rw [State.endRange_of_table_some htable]
    exact ends_of_table rfl rfl rfl rfl

/-! ### Walks -/

/-- A walk ends if the command does with each of the results it can have. -/
theorem ends_of_walk {s : State} (hanswers : Answers s) {f : WalkFrame} (hwalk : s.walk = some f)
    (hsplit : f.split = splitAddress f.va)
    (hend : ∀ (u : State) (x : TranslationResult), u.range = s.range → Answers u →
      (x.pageBase = none ∨ ∃ base k, MapsPage x f.va base k) → Ends (u.endWalk x)) : Ends s := by
  induction hn : f.level.toNat using Nat.strong_induction_on generalizing s f with
  | _ n ih =>
    refine ends_of_nextRead hanswers (nextRead_of_walk hwalk) fun raw rest hrest hanswer => ?_
    refine .of_step (step_walk_answered hwalk hanswer) ?_
    cases hp : raw.getLsbD 0 with
    | false =>
      rw [visitEntry_of_not_present hp]
      exact hend _ _ rfl hrest (.inl rfl)
    | true =>
      cases hf : form f.level raw with
      | leaf =>
        rw [visitEntry_of_leaf hp hf, hsplit]
        exact hend _ _ rfl hrest (.inr ⟨_, _, mapsPage_mappedResult hf⟩)
      | table =>
        have hbelow : (below f.level).toNat < n := hn ▸ Nat.lt_of_succ_le (toNat_below (ne_l1_of_form_table hf)).le
        rw [visitEntry_of_table hp hf]
        exact ends_sampleAbort fun as => ih _ hbelow hrest rfl hsplit hend rfl

/-! ### Requests -/

/-- The copy of a chunk ends if the loop over pages behind it does. -/
theorem ends_of_copy {s : State} (hanswers : Answers s) {r : RangeFrame} {c : CopyState} (hwalk : s.walk = none)
    (hrange : s.range = some r) (hcopy : r.copy = some c) (hleft : c.chunkLeft ≠ 0)
    (hend : ∀ (u : State) (r' : RangeFrame), Answers u → r'.remaining = r.remaining - c.chunk →
      Ends (u.rangeLoop r' true)) : Ends s := by
  induction hn : c.chunkLeft.toNat using Nat.strong_induction_on generalizing s r c with
  | _ n ih =>
    refine ends_of_nextRead hanswers (nextRead_of_copy hwalk hrange hcopy hleft) fun v rest hrest hanswer => ?_
    refine .of_step (step_copy_answered hwalk hrange hcopy hleft hanswer) ?_
    have hle := bytes_dataReadSize_le (pa := c.pa) hleft
    have hpos := bytes_dataReadSize_pos c.pa c.chunkLeft
    have hsub := toNat_sub_ofNat hle
    obtain hlt | hdone := hle.lt_or_eq
    · have hless : (c.chunkLeft - BitVec.ofNat 64 (dataReadSize c.pa c.chunkLeft).bytes).toNat < n := by omega
      rw [State.afterDataRead_of_lt r v hlt]
      exact ends_sampleAbort fun as => ih _ hless hrest hwalk rfl rfl (sub_ofNat_ne_zero hlt) hend rfl
    · rw [State.afterDataRead_of_eq r v hdone.symm]
      exact hend _ _ hrest rfl

/-- A chunk is no longer than the request, and not empty. -/
theorem toNat_chunkLength_pos_le {r : RangeFrame} (hremaining : r.remaining ≠ 0) {size : Nat} {offset : BitVec 30}
    (hoffset : offset.toNat < size) :
    0 < (BitVec.ofNat 64 (chunkLength size offset r.remaining)).toNat ∧
      (BitVec.ofNat 64 (chunkLength size offset r.remaining)).toNat ≤ r.remaining.toNat := by
  have hpos := BitVec.toNat_pos_of_ne_zero hremaining
  rw [BitVec.toNat_ofNat, Nat.mod_eq_of_lt (by unfold chunkLength; omega)]
  unfold chunkLength
  omega

/-- The loop over pages comes to the end of its request. -/
theorem ends_rangeLoop {s : State} (hanswers : Answers s) (r : RangeFrame) (afterRead : Bool) :
    Ends (s.rangeLoop r afterRead) := by
  induction hn : r.remaining.toNat using Nat.strong_induction_on generalizing s r afterRead with
  | _ n ih =>
    by_cases hremaining : r.remaining = 0
    · rw [State.rangeLoop_of_remaining_eq_zero hremaining]
      exact ends_endRange _ _
    cases haccepts : s.acceptsVa r.cur with
    | false =>
      rw [State.rangeLoop_of_not_acceptsVa hremaining haccepts]
      exact ends_endCommand _ _
    | true =>
      have hpage (as : List Bool) : Ends (State.withAborts
          { s with range := some r, walk := some (firstWalkFrame r.root r.cur) } as) := by
        refine ends_of_walk (f := firstWalkFrame r.root r.cur) hanswers rfl rfl fun u x hrange hu hx => ?_
        obtain hunmapped | ⟨base, k, hmaps⟩ := hx
        · rw [State.endWalk_of_unmapped hrange (.inl hunmapped)]
          exact ends_endCommand _ _
        · obtain ⟨offset, hoffset, hvalue⟩ := hmaps.pageOffset
          rw [State.endWalk_of_mapped hrange hmaps.pageBase hmaps.pageSize hoffset]
          obtain ⟨hpos, hle⟩ := toNat_chunkLength_pos_le hremaining (offset := offset) (size := 2 ^ k)
            (by rw [hvalue]; exact Nat.mod_lt _ (Nat.two_pow_pos k))
          have hless : (r.remaining - BitVec.ofNat 64 (chunkLength (2 ^ k) offset r.remaining)).toNat < n := by
            rw [BitVec.toNat_sub_of_le (by rw [BitVec.le_def]; exact hle)]
            omega
          exact ends_sampleAbort fun as => ends_of_copy (by exact hu) rfl rfl rfl
            (by rw [BitVec.toNat_ne]; exact hpos.ne') fun u' r' hu' hr' => ih _ (by rw [hr']; exact hless) hu' r' true rfl
      cases afterRead with
      | false =>
        rw [State.rangeLoop_of_acceptsVa hremaining haccepts]
        exact hpage s.aborts
      | true =>
        rw [State.rangeLoop_afterRead_of_acceptsVa hremaining haccepts]
        exact ends_sampleAbort hpage

theorem ends_beginWalk {s : State} (hanswers : Answers s) (hrange : s.range = none) (root va : Word) :
    Ends (s.beginWalk root va) := by
  by_cases haccepts : s.acceptsVa va = true
  · rw [State.beginWalk_of_acceptsVa haccepts]
    refine ends_of_walk (f := firstWalkFrame root va) hanswers rfl rfl fun u x hu _ _ => ?_
    rw [State.endWalk_of_range_none (hu.trans hrange)]
    exact ends_endCommand _ _
  · rw [State.beginWalk_of_not_acceptsVa haccepts]
    exact ends_endCommand _ _

end Sys2Proof.Machine

namespace Sys2Proof.Certificates

open Sys2Proof.Machine Sys2Proof.Safety

/-- Settles O60: most commands end at once (`command_cases`); RESOLVE ends with its walk, and READ, GDT and IDT with the loop
over their pages. -/
theorem everyAnsweredCommandEnds : Obligations.EveryAnsweredCommandEnds := by
  intro s i hholds hanswers
  obtain ⟨hidle, w, hcmd, rfl⟩ := id hholds
  obtain ⟨-, hrange, -⟩ := s.phase_idle_iff.mp hidle
  obtain ⟨r, -, hexec⟩ | ⟨root, va, hi⟩ | ⟨root, va, length, hi⟩ | ⟨root, base, limit, hi | hi⟩ :=
    command_cases hidle (kind_decodeCommand w)
  · exact Ends.of_step ((step_of_command hidle hcmd).trans (hexec s.record)) (ends_endCommand _ _)
  · rw [hi] at hholds
    exact Ends.of_step (step_of_holds_resolve hholds) (ends_beginWalk hanswers hrange root va)
  · rw [hi] at hholds
    exact Ends.of_step (step_of_holds_read hholds) (ends_rangeLoop hanswers _ false)
  · rw [hi] at hholds
    exact Ends.of_step (step_of_holds_gdt hholds) (ends_rangeLoop (by exact hanswers) _ false)
  · rw [hi] at hholds
    exact Ends.of_step (step_of_holds_idt hholds) (ends_rangeLoop (by exact hanswers) _ false)

end Sys2Proof.Certificates
